-- ==== Sys2Proof/Word.lean ====
section
/-! DEFINITION. The words of the block: the byte every bus access moves (spec/20_memory.md R41, R43) and the
16-bit page-table entry (spec/10_state.md R21). Addresses and page indexes are natural numbers (R11, R90). -/

namespace Sys2Proof

/-- A byte: the only access width of the bus (spec/20_memory.md R43). -/
abbrev Byte := BitVec 8

/-- A page-table entry, stored whole, reserved bits included (spec/10_state.md R21, spec/30_encoding.md R60). -/
abbrev Pte := BitVec 16

/-- A pair of bytes as one entry, `hi ++ lo` (spec/00_scope.md R11; spec/20_memory.md R41: the table is little-endian). -/
def pteOfBytes (hi lo : Byte) : Pte := hi ++ lo

end Sys2Proof
end

