-- ==== Sys2Proof/Config.lean ====
section
/-! DEFINITION. The implementation parameters of spec/00_scope.md R7 to R10 as one plain record, the spec's
illustrative configuration REFCONF, and the model's one free value, `Config.freeByte`, which has no body.
A state carries its configuration as a field that no step changes, so a statement about every state is a
statement about every configuration (spec/92_eei_decisions.md D1, D8, D9). Which configurations are refused is
`Sys2Proof.Machine.configValid` in Machine/Operands.lean (spec/43_dispatcher.md R153, D3, D26). -/

namespace Sys2Proof

/-- The profile (spec/00_scope.md R6, R10): `paged` is normative. -/
inductive Profile where
  | paged
  | unpaged
deriving DecidableEq, Repr

/-- What an address of a frame beyond the physical space does (spec/92_eei_decisions.md D4). -/
inductive FrameOverflow where
  /-- The spec's default: reduce modulo `MEMSIZE`. -/
  | wrap
  /-- The alternative: the model-only outcome `FrameOutOfRange`. -/
  | fault
deriving DecidableEq, Repr

/-- Which byte becomes the unpaged exit status (spec/00_scope.md R10, spec/43_dispatcher.md R162). -/
inductive ExitSource where
  /-- The spec's default: the byte written to the exit address. -/
  | written
  /-- The byte last written to the console-output/exit-code address. -/
  | lastOut
deriving DecidableEq, Repr

/-- The parameters of spec/00_scope.md R7 (geometry), R8 (addresses), R9 (opcode values) and R10 (profile, loader,
host). `MEMSIZE` and `N_ENTRIES` are given by their logarithms, so that a size which is no power of two
(spec/92_eei_decisions.md D26) cannot be written down. -/
structure Config where
  profile : Profile
  /-- log2 of `MEMSIZE`; 24 in the reference profile. -/
  memBits : Nat
  /-- `INDEX_BITS`, log2 of `N_ENTRIES`; 10 in the reference profile. -/
  indexBits : Nat
  /-- `FRAME_BITS`, the width of an entry's frame field; 11 in the reference profile. -/
  frameBits : Nat
  /-- `DEVICE_LIMIT`: device decode happens only below it. -/
  deviceLimit : Nat
  /-- `SHADOW_PAGE`. -/
  shadowPage : Nat
  consoleOut : Nat
  consoleStatus : Nat
  consoleIn : Nat
  trace : Nat
  ctlEnabled : Nat
  ctlSupervisor : Nat
  ctlShadow : Nat
  ctlRtiToUser : Nat
  ptBase : Nat
  romBase : Nat
  /-- `PRIV_OPCODES` (D8). -/
  privOpcodes : List Byte
  /-- `NOP_SUBST` (D9). -/
  nopSubst : Byte
  frameOverflow : FrameOverflow
  uConsoleStatus : Nat
  uConsoleOut : Nat
  uExit : Nat
  exitSource : ExitSource
  /-- `LOAD_WINDOW_UNPAGED` (D27). -/
  loadWindowUnpaged : Nat
  /-- `WATCHDOG_LIMIT` (D24). -/
  watchdogLimit : Nat
  /-- `DIAG_WINDOW`: its first physical address and its length in bytes (D24). -/
  diagBase : Nat
  diagLength : Nat
deriving DecidableEq, Repr

/-- `MEMSIZE` (spec/00_scope.md R7). -/
def Config.memSize (c : Config) : Nat := 2 ^ c.memBits

/-- `N_ENTRIES` (spec/00_scope.md R7). -/
def Config.nEntries (c : Config) : Nat := 2 ^ c.indexBits

/-- `OFFSET_BITS`, log2 of `PAGE_SIZE` (spec/00_scope.md R7). -/
def Config.offsetBits (c : Config) : Nat := c.memBits - c.indexBits

/-- REFCONF (spec/00_scope.md R8, R9): the spec's own illustration, not the hardware's addresses (D1).
DESIGN CHOICE, unsafe (log entry 1): the parameters REFCONF gives no value are given one here. -/
def Config.refconf : Config where
  profile := .paged
  memBits := 24
  indexBits := 10
  frameBits := 11
  deviceLimit := 0x10000
  shadowPage := 3
  consoleOut := 0xD000
  consoleStatus := 0xD001
  consoleIn := 0xD002
  trace := 0xD003
  ctlEnabled := 0xD010
  ctlSupervisor := 0xD011
  ctlShadow := 0xD012
  ctlRtiToUser := 0xD013
  ptBase := 0xE000
  romBase := 0xF000
  privOpcodes := [0x78, 0xCB, 0xDB, 0xFB]
  nopSubst := 0xEA
  frameOverflow := .wrap
  uConsoleStatus := 0xD001
  uConsoleOut := 0xD000
  uExit := 0xD002
  exitSource := .written
  loadWindowUnpaged := 0x10000
  watchdogLimit := 0x100000000
  diagBase := 0
  diagLength := 0x100

/-- `draw()` of spec/00_scope.md R12: an unconstrained byte chosen by the environment. It has no body: nothing
is provable of its value. The argument is the number of draws made before (`State.draws`; log entry 5). -/
opaque Config.freeByte : Nat → Byte

end Sys2Proof
end

