-- ==== Sys2Proof/Syntax.lean ====
section
/-! DEFINITION. The instructions: one constructor for each of the thirteen rows of spec/opcode_table.json. -/

namespace Sys2Proof

/-- The block's instructions. Eight rows are bus requests (spec/30_encoding.md R75, R76; notation of
spec/00_scope.md R13); their address is any natural number (spec/92_eei_decisions.md D25), reduced by the façade
(spec/40_bus_facade.md R90). Five rows are fetched bytes the read translator recognises (spec/30_encoding.md R73):
such an instruction is step 8 of a `VPA` read, at the point where the dispatcher has returned this byte. Its
operands are what the access carries to step 8: the virtual address, the page index used (after shadowing), and
whether `VP` accompanies `VPA` (DESIGN CHOICE, log entry 8). -/
inductive Instr where
  /-- `R va`: ordinary read. -/
  | r (va : Nat)
  /-- `V va`: vector pull. -/
  | v (va : Nat)
  /-- `F va`: read with the valid-program-address flag. -/
  | f (va : Nat)
  /-- `FV va`: read with both flags. -/
  | fv (va : Nat)
  /-- `W va, b`: write. -/
  | w (va : Nat) (b : Byte)
  /-- Request kind 101: a write with `VP`, refused. -/
  | writeVp
  /-- Request kind 110: a write with `VPA`, refused. -/
  | writeVpa
  /-- Request kind 111: a write with `VPA` and `VP`, refused. -/
  | writeVpaVp
  /-- `RTI (fetched byte)`: 0x40. -/
  | rtiByte (va index : Nat) (vp : Bool)
  /-- `SEI (fetched byte)`: 0x78. -/
  | seiByte (va index : Nat) (vp : Bool)
  /-- `WAI (fetched byte, REFCONF only)`: 0xCB. -/
  | waiByte (va index : Nat) (vp : Bool)
  /-- `STP (fetched byte, REFCONF only)`: 0xDB. -/
  | stpByte (va index : Nat) (vp : Bool)
  /-- `XCE (fetched byte, REFCONF only)`: 0xFB. -/
  | xceByte (va index : Nat) (vp : Bool)
deriving DecidableEq, Repr

end Sys2Proof
end

