-- ==== Sys2Proof/WellFormed.lean ====
section
/-! DEFINITION. Which instructions the request encoding of spec/30_encoding.md R75 can write down: a 24-bit
address, and for a fetched byte a 10-bit page index (R62). `exec` runs the others too, since the façade reduces any
natural number (spec/40_bus_facade.md R90). -/

namespace Sys2Proof

/-- A fetched byte's operands fit their fields (log entry 8). -/
def fetchOperandsFit (va index : Nat) : Bool := decide (va < 2 ^ 24) && decide (index < 2 ^ 10)

/-- The instruction has an encoding (spec/30_encoding.md R75). -/
def Instr.wellFormed (i : Instr) : Bool :=
  match i with
  | .r va => decide (va < 2 ^ 24)
  | .v va => decide (va < 2 ^ 24)
  | .f va => decide (va < 2 ^ 24)
  | .fv va => decide (va < 2 ^ 24)
  | .w va _ => decide (va < 2 ^ 24)
  | .writeVp => true
  | .writeVpa => true
  | .writeVpaVp => true
  | .rtiByte va index _ => fetchOperandsFit va index
  | .seiByte va index _ => fetchOperandsFit va index
  | .waiByte va index _ => fetchOperandsFit va index
  | .stpByte va index _ => fetchOperandsFit va index
  | .xceByte va index _ => fetchOperandsFit va index

end Sys2Proof
end

