-- ==== Sys2Proof/Decode.lean ====
section
/-! DEFINITION. The two word formats of spec/opcode_table.json, the decoder (total, rejecting by name) and the
encoder. `REQ35` is spec/30_encoding.md R75: kind in bits 34 to 32, address in bits 31 to 8, data in bits 7 to 0,
held in five bytes. `FETCHED_BYTE8` is spec/30_encoding.md R73: the byte in bits 7 to 0; the operand bits above it
are the model's own (DESIGN CHOICE, log entry 8): address in bits 31 to 8, `VP` in bit 32, page index in bits 42 to
33, held in six bytes. The bits above a format are not the spec's: a word that sets one is rejected (log entry 7). -/

namespace Sys2Proof

/-- What the engine presents to the block: a request, or (for the fetched-byte rows) a byte at step 8 of a read. -/
inductive BusWord where
  | request (word : BitVec 40)
  | fetched (word : BitVec 48)
deriving DecidableEq, Repr

/-- Why a word is not decoded. -/
inductive DecodeError where
  /-- A bit above the format is set. -/
  | reservedBits
  /-- The fetched byte has no row in the table ("No other fetched byte value is special", spec/30_encoding.md R73);
  what the word carries is kept, because step 8 still looks the byte up in the configuration's `PRIV_OPCODES`. -/
  | noRow (byte : Byte) (va index : Nat) (vp : Bool)
deriving DecidableEq, Repr

/-- The request format of spec/30_encoding.md R75: the three kind bits are `rw`, `vpa`, `vp`, in that order. -/
def decodeRequest (word : BitVec 40) : Except DecodeError Instr :=
  let va := (word.extractLsb' 8 24).toNat
  let b := word.extractLsb' 0 8
  if word.extractLsb' 35 5 = 0 then
    match word.getLsbD 34, word.getLsbD 33, word.getLsbD 32 with
    | false, false, false => .ok (.r va)
    | false, false, true => .ok (.v va)
    | false, true, false => .ok (.f va)
    | false, true, true => .ok (.fv va)
    | true, false, false => .ok (.w va b)
    | true, false, true => .ok .writeVp
    | true, true, false => .ok .writeVpa
    | true, true, true => .ok .writeVpaVp
  else .error .reservedBits

/-- The fetched-byte format: the byte of spec/30_encoding.md R73 in bits 7 to 0. -/
def decodeFetched (word : BitVec 48) : Except DecodeError Instr :=
  let b := word.extractLsb' 0 8
  let va := (word.extractLsb' 8 24).toNat
  let vp := word.getLsbD 32
  let index := (word.extractLsb' 33 10).toNat
  if word.extractLsb' 43 5 = 0 then
    if b = 0x40 then .ok (.rtiByte va index vp)
    else if b = 0x78 then .ok (.seiByte va index vp)
    else if b = 0xCB then .ok (.waiByte va index vp)
    else if b = 0xDB then .ok (.stpByte va index vp)
    else if b = 0xFB then .ok (.xceByte va index vp)
    else .error (.noRow b va index vp)
  else .error .reservedBits

/-- The decoder: total on every word. -/
def decode (word : BusWord) : Except DecodeError Instr :=
  match word with
  | .request w => decodeRequest w
  | .fetched w => decodeFetched w

/-- A request word of spec/30_encoding.md R75; a field the row does not use is zero. -/
def requestWord (kind : BitVec 3) (va : Nat) (b : Byte) : BusWord :=
  .request (0#5 ++ kind ++ BitVec.ofNat 24 va ++ b)

/-- A fetched-byte word, with the model's operand bits (log entry 8). -/
def fetchedWord (b : Byte) (va index : Nat) (vp : Bool) : BusWord :=
  .fetched (0#5 ++ BitVec.ofNat 10 index ++ BitVec.ofBool vp ++ BitVec.ofNat 24 va ++ b)

/-- The encoder, from the same two formats. -/
def encode (i : Instr) : BusWord :=
  match i with
  | .r va => requestWord 0b000 va 0
  | .v va => requestWord 0b001 va 0
  | .f va => requestWord 0b010 va 0
  | .fv va => requestWord 0b011 va 0
  | .w va b => requestWord 0b100 va b
  | .writeVp => requestWord 0b101 0 0
  | .writeVpa => requestWord 0b110 0 0
  | .writeVpaVp => requestWord 0b111 0 0
  | .rtiByte va index vp => fetchedWord 0x40 va index vp
  | .seiByte va index vp => fetchedWord 0x78 va index vp
  | .waiByte va index vp => fetchedWord 0xCB va index vp
  | .stpByte va index vp => fetchedWord 0xDB va index vp
  | .xceByte va index vp => fetchedWord 0xFB va index vp

/-- The word the table's numbering gives: a row of at most 8 bits is of the fetched-byte format, a wider one is a
request. A request is one word of five bytes and has no storage order of its own (spec/20_memory.md R41). -/
def tableWord (nbits w : Nat) : BusWord :=
  if nbits ≤ 8 then .fetched (BitVec.ofNat 48 w) else .request (BitVec.ofNat 40 w)

/-- The instruction the decoder reads from the table's bits. -/
def decodeTableWord (nbits w : Nat) : Option Instr :=
  match decode (tableWord nbits w) with
  | .ok i => some i
  | .error _ => none

end Sys2Proof
end

