-- ==== Sys2Proof/Machine/State.lean ====
section
/-! DEFINITION. The whole state of spec/10_state.md as plain data, the reasons a step can stop, and the state after
power-on. Beside what the spec gives the block (`mem`, `pt`, `ctl`) and its environment (`env`), the model has
five fields of its own: the configuration, the queue of what the engine and the host present next, the answer to
the last access, the watchdog's count and dump, and the count of free values drawn (log entries 1, 4, 5, 6, 9). -/

namespace Sys2Proof.Machine

/-- Physical memory (spec/10_state.md R20), one byte at every physical address, held as Machine/Store.lean says. -/
abbrev Memory := List Host.Cell

/-- The page table (spec/10_state.md R21): entry by page index, storage of its own apart from memory. -/
abbrev PageTable := List (Nat × Pte)

/-- The MMU control booleans (spec/10_state.md R22). -/
structure Ctl where
  enabled : Bool
  supervisor : Bool
  shadow : Bool
  rtiToUser : Bool
deriving DecidableEq, Repr

/-- The access-kind flags of a read (spec/10_state.md R28, spec/30_encoding.md R70): an input of each access, held in
State only inside a recorded fault. -/
structure AccessFlags where
  vpa : Bool
  vp : Bool
deriving DecidableEq, Repr

/-- The fault kinds with their sub-causes (spec/60_exceptions.md R170, R172). -/
inductive FaultKind where
  | pageNotPresent
  /-- `PrivilegeViolation`, access into a supervisor-only page (code 2.0). -/
  | privilegePage
  /-- `PrivilegeViolation`, forbidden opcode byte in user mode (code 2.1). -/
  | privilegeOpcode
  | readOnlyViolation
  /-- Model-only, raised only when `FRAME_OVERFLOW = fault` (D4). -/
  | frameOutOfRange
deriving DecidableEq, Repr

/-- `Fault(kind, va, flags, i)` (spec/60_exceptions.md R175). -/
structure FaultRecord where
  kind : FaultKind
  va : Nat
  flags : AccessFlags
  index : Nat
deriving DecidableEq, Repr

/-- The host-visible events (spec/10_state.md R27). -/
inductive Event where
  | output (b : Byte)
  | trace (b : Byte)
  | abort (fault : FaultRecord)
  | exit (b : Byte)
deriving DecidableEq, Repr

/-- The environment (spec/10_state.md R27), and the host's watchdog (spec/60_exceptions.md R190). -/
structure Env where
  /-- Console input bytes now pending. -/
  input : List Byte
  /-- The events emitted, oldest first. -/
  events : List Event
  /-- The exit status, once an unpaged exit write has been made (spec/43_dispatcher.md R162). -/
  halted : Option Byte
  /-- The host's count of `read` and `write` calls (R190). -/
  accesses : Nat
  /-- The contents of `DIAG_WINDOW`, once the watchdog has expired and ended the run (R190). -/
  dump : Option (List Byte)
deriving DecidableEq, Repr

/-- What an access returns (spec/40_bus_facade.md R91, R92): the data byte of a read, and the fault outcome. -/
structure Reply where
  data : Option Byte
  fault : Option FaultRecord
deriving DecidableEq, Repr

/-- What happens next at the block's boundary: the engine presents a word, or the host appends a byte to console
input (spec/92_eei_decisions.md D13, D33: between two accesses). -/
inductive BusItem where
  | engine (word : BusWord)
  | host (b : Byte)
deriving DecidableEq, Repr

/-- The machine. -/
structure State where
  /-- The configuration (spec/00_scope.md R7 to R10); no step changes it. -/
  cfg : Config
  mem : Memory
  pt : PageTable
  ctl : Ctl
  env : Env
  /-- The model's own field: what the engine and the host present, next first. -/
  pending : List BusItem
  /-- The model's own field: what the last access returned. -/
  reply : Option Reply
  /-- The model's own field: how many free bytes have been drawn (`Config.freeByte`). -/
  draws : Nat
deriving DecidableEq, Repr

/-- Why the machine stops. -/
inductive Fault where
  /-- A request after an unpaged exit write: raised by every step and every access once `env.halted` is set, because
  "the block takes no further request" (spec/43_dispatcher.md R162). Safe: the spec gives no further step. -/
  | runHalted
  /-- A request after the watchdog ended the run: raised by every step and every access once `env.dump` is set
  (spec/60_exceptions.md R190). Safe: the spec gives no further step. -/
  | watchdogExpired
  /-- A whole-system run ends at its first `Abort` event (spec/60_exceptions.md R176, D20): raised only by
  `Sys2Proof.Safety.systemStep`, never by `step` or `exec`. Safe: a fault is never a normal end. -/
  | aborted (fault : FaultRecord)
deriving DecidableEq, Repr

/-- Why the model gives an instruction no step. -/
inductive Refusal where
  /-- An instruction without a meaning yet: raised only by an arm of `exec`. Safe. -/
  | notModelled (mnemonic : String)
  /-- A write with access-kind flags, which "the call interface cannot express" (spec/30_encoding.md R76): raised by
  the three reserved request kinds. Safe: such a request has no step. -/
  | writeWithFlags
  /-- A configuration that breaks spec/00_scope.md R7 or spec/43_dispatcher.md R153: raised by every step and every
  access of such a state. Safe: a model refuses it (D3, D26). -/
  | invalidConfiguration
  /-- A word with a bit set above its format: raised by `step`. Safe: no request of the interface has such a bit. -/
  | undecodableWord
deriving DecidableEq, Repr

/-- The state at power-on (spec/10_state.md R33, spec/70_reset_and_hazards.md R200), for a configuration and for
contents of memory and page table, which the spec leaves arbitrary (D17). -/
def State.powerOn (cfg : Config) (mem : Memory) (pt : PageTable) : State where
  cfg := cfg
  mem := mem
  pt := pt
  ctl := { enabled := false, supervisor := true, shadow := false, rtiToUser := false }
  env := { input := [], events := [], halted := none, accesses := 0, dump := none }
  pending := []
  reply := none
  draws := 0

/-- The machine right after reset: power-on at REFCONF with nothing listed and no image (log entries 1, 2, 9). -/
def State.reset : State := State.powerOn Config.refconf [] []

end Sys2Proof.Machine
end

