-- ==== Sys2Proof/Machine/Flags.lean ====
section
/-! DEFINITION. The flags of the block: the access-kind flags of each request kind (spec/30_encoding.md R70, R71,
R75), the control booleans as their registers read and write them (R72), and the fault codes (spec/60_exceptions.md
R172). -/

namespace Sys2Proof.Machine

/-- `R`: no flag. -/
def flagsR : AccessFlags := { vpa := false, vp := false }

/-- `V`: `VP`. -/
def flagsV : AccessFlags := { vpa := false, vp := true }

/-- `F`: `VPA`. -/
def flagsF : AccessFlags := { vpa := true, vp := false }

/-- `FV`: both. -/
def flagsFV : AccessFlags := { vpa := true, vp := true }

/-- A write's flags in a fault record: empty (spec/60_exceptions.md R175). -/
def flagsW : AccessFlags := { vpa := false, vp := false }

/-- The read request that carries these flags (spec/30_encoding.md R75). -/
def readInstr (fl : AccessFlags) (va : Nat) : Instr :=
  match fl.vpa, fl.vp with
  | false, false => .r va
  | false, true => .v va
  | true, false => .f va
  | true, true => .fv va

/-- The four control registers (spec/10_state.md R22). -/
inductive CtlReg where
  | enabled
  | supervisor
  | shadow
  | rtiToUser
deriving DecidableEq, Repr

/-- The boolean a control register holds (spec/43_dispatcher.md R148). -/
def ctlGet (r : CtlReg) (c : Ctl) : Bool :=
  match r with
  | .enabled => c.enabled
  | .supervisor => c.supervisor
  | .shadow => c.shadow
  | .rtiToUser => c.rtiToUser

/-- Sets the boolean of a control register (spec/43_dispatcher.md R149). -/
def ctlSet (r : CtlReg) (x : Bool) (c : Ctl) : Ctl :=
  match r with
  | .enabled => { c with enabled := x }
  | .supervisor => { c with supervisor := x }
  | .shadow => { c with shadow := x }
  | .rtiToUser => { c with rtiToUser := x }

/-- A boolean as a byte: 0x01 or 0x00 (spec/30_encoding.md R72). -/
def boolByte (x : Bool) : Byte := if x then 0x01 else 0x00

/-- The boolean a written byte stands for: bit 0 (spec/30_encoding.md R72). -/
def byteBool (b : Byte) : Bool := b.getLsbD 0

/-- The fault code and its sub-code (spec/60_exceptions.md R172). -/
def faultCode (k : FaultKind) : Nat × Nat :=
  match k with
  | .pageNotPresent => (1, 0)
  | .privilegePage => (2, 0)
  | .privilegeOpcode => (2, 1)
  | .readOnlyViolation => (3, 0)
  | .frameOutOfRange => (0xFF, 0)

end Sys2Proof.Machine
end

