-- ==== Sys2Proof/Machine/Operands.lean ====
section
/-! DEFINITION. The operand forms of the block: the address reduction, the page index and offset, the fields of a
page-table entry, the physical address, the page-table window's layout, the address windows of a configuration and
which configurations are refused. -/

namespace Sys2Proof.Machine

/-- `PAGE_SIZE = MEMSIZE / N_ENTRIES` (spec/00_scope.md R7). -/
def pageSize (c : Config) : Nat := c.memSize / c.nEntries

/-- `SHADOW_TARGET = N_ENTRIES - 1` (spec/00_scope.md R7). -/
def shadowTarget (c : Config) : Nat := c.nEntries - 1

/-- The size of the ROM window (spec/43_dispatcher.md R151). -/
def romSize : Nat := 4096

/-- The size of the page-table window: two bytes an entry (spec/43_dispatcher.md R150). -/
def tableSize (c : Config) : Nat := 2 * c.nEntries

/-- The façade's reduction (spec/40_bus_facade.md R90). -/
def reduceAddress (c : Config) (va : Nat) : Nat := va % c.memSize

/-- `index(va)` (spec/30_encoding.md R62). -/
def pageIndex (c : Config) (va : Nat) : Nat := (va / pageSize c) % c.nEntries

/-- `offset(va)` (spec/30_encoding.md R62). -/
def pageOffset (c : Config) (va : Nat) : Nat := va % pageSize c

/-- `frame(e)` (spec/30_encoding.md R61): the low `FRAME_BITS` bits, bits 10 to 0 in the reference profile. -/
def pteFrame (c : Config) (e : Pte) : Nat := (e.extractLsb' 0 c.frameBits).toNat

/-- `user(e)` (spec/30_encoding.md R61). -/
def pteUser (e : Pte) : Bool := e.getLsbD 13

/-- `writable(e)` (spec/30_encoding.md R61). -/
def pteWritable (e : Pte) : Bool := e.getLsbD 14

/-- `present(e)` (spec/30_encoding.md R61). -/
def ptePresent (e : Pte) : Bool := e.getLsbD 15

/-- The low byte of an entry (spec/30_encoding.md R66). -/
def pteLow (e : Pte) : Byte := e.extractLsb' 0 8

/-- The high byte of an entry (spec/30_encoding.md R66). -/
def pteHigh (e : Pte) : Byte := e.extractLsb' 8 8

/-- One byte of an entry: the high one or the low one (spec/30_encoding.md R66). -/
def pteHalf (high : Bool) (e : Pte) : Byte := if high then pteHigh e else pteLow e

/-- The entry with one byte replaced and the other kept (spec/43_dispatcher.md R150). -/
def pteSetHalf (high : Bool) (e : Pte) (b : Byte) : Pte :=
  if high then pteOfBytes b (pteLow e) else pteOfBytes (pteHigh e) b

/-- `pa_raw(e, off)` (spec/30_encoding.md R63). -/
def rawAddress (c : Config) (e : Pte) (off : Nat) : Nat := pteFrame c e * pageSize c + off

/-- The entry reaches past the physical space and the configuration makes that an outcome (spec/41_translate_read.md
R109, D4). -/
def frameOverflows (c : Config) (e : Pte) (off : Nat) : Bool :=
  decide (c.memSize ≤ rawAddress c e off) && decide (c.frameOverflow = .fault)

/-- `pa(e, off)` (spec/30_encoding.md R63). -/
def physicalAddress (c : Config) (e : Pte) (off : Nat) : Nat := rawAddress c e off % c.memSize

/-- `RTI_OPCODE` (spec/00_scope.md R9). -/
def rtiOpcode : Byte := 0x40

/-- The member of `PRIV_OPCODES` the source names (spec/00_scope.md R9). -/
def seiOpcode : Byte := 0x78

/-- `b in PRIV_OPCODES` (spec/41_translate_read.md R111). -/
def isPrivOpcode (c : Config) (b : Byte) : Bool := c.privOpcodes.contains b

/-- `LOAD_OFFSET` (spec/00_scope.md R10). -/
def loadOffset (c : Config) : Nat :=
  match c.profile with
  | .paged => 0xF000
  | .unpaged => 0x1000

/-- `LOAD_WINDOW` (spec/00_scope.md R10, D2, D27). -/
def loadWindow (c : Config) : Nat :=
  match c.profile with
  | .paged => 4096
  | .unpaged => c.loadWindowUnpaged

/-- A range of addresses: its first address and its size. -/
abbrev AddressRange := Nat × Nat

/-- Two ranges share no address. -/
def rangesApart (x y : AddressRange) : Bool := decide (x.1 + x.2 ≤ y.1) || decide (y.1 + y.2 ≤ x.1)

/-- No two ranges of the list share an address. -/
def allApart (l : List AddressRange) : Bool :=
  match l with
  | [] => true
  | x :: rest => rest.all (rangesApart x) && allApart rest

/-- The paged profile's devices and windows (spec/43_dispatcher.md R153). -/
def pagedRanges (c : Config) : List AddressRange :=
  [(c.consoleOut, 1), (c.consoleStatus, 1), (c.consoleIn, 1), (c.trace, 1), (c.ctlEnabled, 1),
    (c.ctlSupervisor, 1), (c.ctlShadow, 1), (c.ctlRtiToUser, 1), (c.ptBase, tableSize c), (c.romBase, romSize)]

/-- The unpaged profile's three devices (spec/43_dispatcher.md R160). -/
def unpagedRanges (c : Config) : List AddressRange := [(c.uConsoleStatus, 1), (c.uConsoleOut, 1), (c.uExit, 1)]

/-- The ranges are disjoint and inside the space they lie in (spec/43_dispatcher.md R153, D3). The unpaged
devices' condition is the same by analogy (DEDUCED, log entry 10). -/
def addressesValid (c : Config) : Bool :=
  match c.profile with
  | .paged => (pagedRanges c).all (fun x => decide (x.1 + x.2 ≤ c.deviceLimit)) && allApart (pagedRanges c)
  | .unpaged =>
    (unpagedRanges c).all (fun x => decide (x.1 + x.2 ≤ c.memSize)) && allApart (unpagedRanges c) &&
      decide (4096 ≤ c.loadWindowUnpaged) && decide (c.loadWindowUnpaged ≤ 0x10000)

/-- `N_ENTRIES` divides `MEMSIZE`, and a page is at most 16 KiB (spec/00_scope.md R7, D26). The frame keeps clear of the
reserved bits 11 and 12, which must have no meaning (spec/30_encoding.md R60, R76; DEDUCED, log entry 16). -/
def geometryValid (c : Config) : Bool :=
  decide (c.indexBits ≤ c.memBits) && decide (c.offsetBits ≤ 14) && decide (c.frameBits ≤ 11)

/-- `PRIV_OPCODES` is a set of exactly four bytes that contains 0x78 (spec/00_scope.md R9). -/
def opcodesValid (c : Config) : Bool :=
  decide (c.privOpcodes.length = 4) && decide c.privOpcodes.Nodup && c.privOpcodes.contains seiOpcode

/-- The load window and `DIAG_WINDOW` lie inside physical memory, and the watchdog's limit is a count an access can
reach (DESIGN CHOICE, log entry 10). -/
def hostValid (c : Config) : Bool :=
  decide (loadOffset c + loadWindow c ≤ c.memSize) && decide (c.diagBase + c.diagLength ≤ c.memSize) &&
    decide (0 < c.watchdogLimit)

/-- The configurations a model takes (spec/00_scope.md R7, spec/43_dispatcher.md R153, D3, D26). -/
def configValid (c : Config) : Bool := geometryValid c && addressesValid c && opcodesValid c && hostValid c

end Sys2Proof.Machine
end

