-- ==== Sys2Proof/Machine/Store.lean ====
section
/-! DEFINITION. Arrays as plain data: a list of index and value pairs in one canonical form (indexes strictly
rising, no entry equal to what an unlisted index reads as). Physical memory (spec/10_state.md R20) and the page
table (spec/10_state.md R21) are both held so. -/

namespace Sys2Proof.Machine

/-- What an unlisted index reads as. DESIGN CHOICE, unsafe (log entry 2): the spec leaves the power-on contents of
memory and of the page table arbitrary (spec/10_state.md R33, D17); statements quantify over the listed contents. -/
def unlisted (n : Nat) : BitVec n := 0

/-- The value at index `k`. -/
def sparseRead {n : Nat} (l : List (Nat × BitVec n)) (k : Nat) : BitVec n :=
  match l with
  | [] => unlisted n
  | (a, x) :: rest => if a = k then x else sparseRead rest k

/-- Puts an entry in front, unless it holds what an unlisted index reads as. -/
def sparseCons {n : Nat} (k : Nat) (x : BitVec n) (l : List (Nat × BitVec n)) : List (Nat × BitVec n) :=
  if x = unlisted n then l else (k, x) :: l

/-- Writes `x` at index `k`, keeping the canonical form. -/
def sparseWrite {n : Nat} (l : List (Nat × BitVec n)) (k : Nat) (x : BitVec n) : List (Nat × BitVec n) :=
  match l with
  | [] => sparseCons k x []
  | (a, y) :: rest =>
    if k < a then sparseCons k x ((a, y) :: rest)
    else if k = a then sparseCons k x rest
    else (a, y) :: sparseWrite rest k x

/-- The canonical form with every index at least `from`: strictly rising, nothing equal to the unlisted value, and
every index below `limit`. -/
def sparseWfFrom {n : Nat} (low limit : Nat) (l : List (Nat × BitVec n)) : Bool :=
  match l with
  | [] => true
  | (a, x) :: rest =>
    decide (low ≤ a) && decide (a < limit) && decide (x ≠ unlisted n) && sparseWfFrom (a + 1) limit rest

/-- The canonical form of an array of `limit` places. -/
def sparseWf {n : Nat} (limit : Nat) (l : List (Nat × BitVec n)) : Bool := sparseWfFrom 0 limit l

end Sys2Proof.Machine
end

