-- ==== Sys2Proof/Machine/Ops.lean ====
section
/-! DEFINITION. The named operations over memory, the page table, the control booleans and the environment; how an
access ends, with or without a fault; the two ways the translator changes the mode; and the conditions under which
the block serves at all. -/

namespace Sys2Proof.Machine

/-- `mem[pa]`, with no device decode (spec/00_scope.md R12). -/
def Memory.read (m : Memory) (pa : Nat) : Byte := sparseRead m pa

/-- `mem[pa] <- b`, with no device decode (spec/00_scope.md R12). -/
def Memory.write (m : Memory) (pa : Nat) (b : Byte) : Memory := sparseWrite m pa b

/-- Memory of `size` bytes is in canonical form. -/
def Memory.wf (size : Nat) (m : Memory) : Bool := sparseWf size m

/-- `pt[i]` (spec/00_scope.md R12). -/
def PageTable.get (t : PageTable) (i : Nat) : Pte := sparseRead t i

/-- `pt[i] <- e` (spec/00_scope.md R12). -/
def PageTable.set (t : PageTable) (i : Nat) (e : Pte) : PageTable := sparseWrite t i e

/-- A table of `entries` entries is in canonical form. -/
def PageTable.wf (entries : Nat) (t : PageTable) : Bool := sparseWf entries t

/-- A RAM write. -/
def State.setMem (s : State) (pa : Nat) (b : Byte) : State := { s with mem := s.mem.write pa b }

/-- A page-table write. -/
def State.setPte (s : State) (i : Nat) (e : Pte) : State := { s with pt := s.pt.set i e }

/-- A control-register write (spec/43_dispatcher.md R149). -/
def State.setCtl (s : State) (r : CtlReg) (x : Bool) : State := { s with ctl := ctlSet r x s.ctl }

/-- `ctl.supervisor <- x`. -/
def State.setMode (s : State) (x : Bool) : State := s.setCtl .supervisor x

/-- `emit e` (spec/00_scope.md R12). -/
def State.emit (s : State) (e : Event) : State := { s with env := { s.env with events := s.env.events ++ [e] } }

/-- Replaces the pending console input. -/
def State.setInput (s : State) (l : List Byte) : State := { s with env := { s.env with input := l } }

/-- `env.halted <- some(v)` (spec/43_dispatcher.md R162). -/
def State.halt (s : State) (v : Byte) : State := { s with env := { s.env with halted := some v } }

/-- `draw()`: a free byte and the state that has used it up (spec/00_scope.md R12, log entry 5). -/
def State.draw (s : State) : Byte × State := (Config.freeByte s.draws, { s with draws := s.draws + 1 })

/-- `return (v, f)` (spec/00_scope.md R12). -/
def State.answer (s : State) (data : Option Byte) (fault : Option FaultRecord) : State :=
  { s with reply := some { data := data, fault := fault } }

/-- The block's exception: `raise Fault(kind, va, flags, i)` and the end of the access. It emits `Abort(fault)` into
`env.events` and then returns the data given (spec/60_exceptions.md R171, R174, R175). It saves no address, mode or
status, changes no mode, and leads to no handler: what follows is the engine's (R177). -/
def takeFault (data : Option Byte) (kind : FaultKind) (va : Nat) (fl : AccessFlags) (i : Nat) (s : State) : State :=
  (s.emit (.abort { kind := kind, va := va, flags := fl, index := i })).answer data
    (some { kind := kind, va := va, flags := fl, index := i })

/-- The block's return to user mode: a supervisor fetch of `RTI_OPCODE` with `rti_to_user` set drops the mode
(spec/60_exceptions.md R180, spec/41_translate_read.md R110); the byte is returned as it is, without a fault, and
`rti_to_user` stays set (D10). -/
def returnToUser (b : Byte) (s : State) : State := (s.setMode false).answer (some b) none

/-- Step 1 of a read: a vector pull forces supervisor mode (spec/41_translate_read.md R102). -/
def forceSupervisor (fl : AccessFlags) (s : State) : State := if fl.vp then s.setMode true else s

/-- Step 5 of a read: a fetch from a user page demotes (spec/41_translate_read.md R107). -/
def demote (fl : AccessFlags) (e : Pte) (s : State) : State := if pteUser e && fl.vpa then s.setMode false else s

/-- Steps 2 and 3 of a read: the page index, redirected when shadowing applies (spec/41_translate_read.md R103,
R104). `s` is the state after step 1. -/
def readIndex (fl : AccessFlags) (va : Nat) (s : State) : Nat :=
  if s.ctl.supervisor && (fl.vpa || fl.vp) && s.ctl.shadow && decide (pageIndex s.cfg va = s.cfg.shadowPage) then
    shadowTarget s.cfg
  else pageIndex s.cfg va

/-- The byte last written to the unpaged console-output/exit-code address: that of the last `Output` event. -/
def lastOutput (l : List Event) : Option Byte :=
  match l with
  | [] => none
  | .output b :: rest => some ((lastOutput rest).getD b)
  | .trace _ :: rest => lastOutput rest
  | .abort _ :: rest => lastOutput rest
  | .exit _ :: rest => lastOutput rest

/-- The contents of `length` bytes of memory from `base`. -/
def dumpBytes (m : Memory) (base length : Nat) : List Byte :=
  match length with
  | 0 => []
  | n + 1 => m.read base :: dumpBytes m (base + 1) n

/-- The host's watchdog after an access (spec/60_exceptions.md R190): the count rises by one, and on reaching the limit
the host dumps `DIAG_WINDOW`, read raw (log entry 14), and ends the run. A run already ended by the exit write has no
watchdog left (log entry 11). DESIGN CHOICE, unsafe (log entry 17): an access that faults is counted like any other, and
one that faults as it reaches the limit has both its `Abort` and the dump. -/
def countAccess (s : State) : State :=
  { s with
    env := { s.env with
      accesses := s.env.accesses + 1
      dump :=
        if s.env.halted = none ∧ s.cfg.watchdogLimit ≤ s.env.accesses + 1 then
          some (dumpBytes s.mem s.cfg.diagBase s.cfg.diagLength)
        else s.env.dump } }

/-- The block serves: the configuration is one a model takes (spec/43_dispatcher.md R153), and the run has not ended
(spec/43_dispatcher.md R162, spec/60_exceptions.md R190). -/
def serve (act : State → State) (s : State) : Host.Outcome State Fault Refusal :=
  if configValid s.cfg then
    if s.env.halted.isSome then .fault .runHalted
    else if s.env.dump.isSome then .fault .watchdogExpired
    else .next (act s)
  else .refused .invalidConfiguration

/-- One bus access: served, and counted by the watchdog once it has completed (spec/40_bus_facade.md R93). -/
def access (act : State → State) (s : State) : Host.Outcome State Fault Refusal := serve (fun x => countAccess (act x)) s

/-- The host appends a byte to console input, between accesses (spec/92_eei_decisions.md D13, D33). -/
def hostAppend (b : Byte) (s : State) : Host.Outcome State Fault Refusal :=
  serve (fun x => x.setInput (x.env.input ++ [b])) s

end Sys2Proof.Machine
end

