-- ==== Sys2Proof/Machine/Bus.lean ====
section
/-! DEFINITION. The physical bus dispatcher (spec/43_dispatcher.md): the decode of a physical address in either
profile, and the byte read and byte write that go through it. -/

namespace Sys2Proof.Machine

/-- What a physical address leads to (spec/43_dispatcher.md R140, R160). -/
inductive Target where
  | consoleOut
  | consoleStatus
  | consoleIn
  | trace
  | control (r : CtlReg)
  /-- One byte of page-table entry `i`. -/
  | table (i : Nat) (high : Bool)
  | rom
  | ram
  | unpagedStatus
  | unpagedOut
  | unpagedExit
deriving DecidableEq, Repr

/-- The paged decode (spec/43_dispatcher.md R140, R141); devices only below `DEVICE_LIMIT`. -/
def pagedTarget (c : Config) (pa : Nat) : Target :=
  if c.deviceLimit ≤ pa then .ram
  else if pa = c.consoleOut then .consoleOut
  else if pa = c.consoleStatus then .consoleStatus
  else if pa = c.consoleIn then .consoleIn
  else if pa = c.trace then .trace
  else if pa = c.ctlEnabled then .control .enabled
  else if pa = c.ctlSupervisor then .control .supervisor
  else if pa = c.ctlShadow then .control .shadow
  else if pa = c.ctlRtiToUser then .control .rtiToUser
  else if c.ptBase ≤ pa ∧ pa < c.ptBase + tableSize c then
    .table ((pa - c.ptBase) / 2) (decide ((pa - c.ptBase) % 2 = 1))
  else if c.romBase ≤ pa ∧ pa < c.romBase + romSize then .rom
  else .ram

/-- The unpaged decode: three devices, everything else RAM (spec/43_dispatcher.md R160). -/
def unpagedTarget (c : Config) (pa : Nat) : Target :=
  if pa = c.uConsoleStatus then .unpagedStatus
  else if pa = c.uConsoleOut then .unpagedOut
  else if pa = c.uExit then .unpagedExit
  else .ram

/-- The decode of the configuration's profile. -/
def busTarget (c : Config) (pa : Nat) : Target :=
  match c.profile with
  | .paged => pagedTarget c pa
  | .unpaged => unpagedTarget c pa

/-- Console status: 0x01 if input is pending (spec/43_dispatcher.md R143, R161). -/
def consoleStatusByte (s : State) : Byte := boolByte (!s.env.input.isEmpty)

/-- Console input: the next pending byte, removed, or 0x00 (spec/43_dispatcher.md R144). -/
def consoleInRead (s : State) : Byte × State :=
  match s.env.input with
  | [] => (0x00, s)
  | b :: rest => (b, s.setInput rest)

/-- The exit status of an exit write (spec/43_dispatcher.md R162, D23). Under `last_out` with no output yet the spec
states no status: a free value (DESIGN CHOICE, log entry 12). -/
def exitStatus (v : Byte) (s : State) : Byte × State :=
  match s.cfg.exitSource with
  | .written => (v, s)
  | .lastOut =>
    match lastOutput s.env.events with
    | some b => (b, s)
    | none => s.draw

/-- An unpaged exit write: `Exit` is emitted and the run ends (spec/43_dispatcher.md R162). -/
def exitWrite (v : Byte) (s : State) : State :=
  ((exitStatus v s).2.emit (.exit (exitStatus v s).1)).halt (exitStatus v s).1

/-- `MemRead(pa, 1)` (spec/43_dispatcher.md R140; R160 to R162 unpaged). -/
def memRead (pa : Nat) (s : State) : Byte × State :=
  match busTarget s.cfg pa with
  | .consoleOut => (0x00, s)
  | .consoleStatus => (consoleStatusByte s, s)
  | .consoleIn => consoleInRead s
  | .trace => s.draw
  | .control r => (boolByte (ctlGet r s.ctl), s)
  | .table i high => (pteHalf high (s.pt.get i), s)
  | .rom => (s.mem.read pa, s)
  | .ram => (s.mem.read pa, s)
  | .unpagedStatus => (consoleStatusByte s, s)
  | .unpagedOut => s.draw
  | .unpagedExit => s.draw

/-- `MemWrite(pa, 1, v)` (spec/43_dispatcher.md R141; R160 to R162 unpaged). -/
def memWrite (pa : Nat) (v : Byte) (s : State) : State :=
  match busTarget s.cfg pa with
  | .consoleOut => s.emit (.output v)
  | .consoleStatus => s
  | .consoleIn => s
  | .trace => s.emit (.trace v)
  | .control r => s.setCtl r (byteBool v)
  | .table i high => s.setPte i (pteSetHalf high (s.pt.get i) v)
  | .rom => s
  | .ram => s.setMem pa v
  | .unpagedStatus => s
  | .unpagedOut => s.emit (.output v)
  | .unpagedExit => exitWrite v s

end Sys2Proof.Machine
end

