-- ==== Sys2Proof/Machine/Translate.lean ====
section
/-! DEFINITION. The address translator (spec/41_translate_read.md, spec/42_translate_write.md) and the bus façade
(spec/40_bus_facade.md). -/

namespace Sys2Proof.Machine

/-- Step 8 of a translated `VPA` read, for the byte the dispatcher returned (spec/41_translate_read.md R110, R111,
R112): one choice on the mode as it stands after step 5. -/
def postFetch (b : Byte) (va : Nat) (fl : AccessFlags) (i : Nat) (s : State) : State :=
  if s.ctl.supervisor then
    if b = rtiOpcode ∧ s.ctl.rtiToUser = true then returnToUser b s else s.answer (some b) none
  else if isPrivOpcode s.cfg b then takeFault (some s.cfg.nopSubst) .privilegeOpcode va fl i s
  else s.answer (some b) none

/-- Steps 7 and 8 of a translated read: the physical read, and for a `VPA` read the check of its byte
(spec/41_translate_read.md R101, R109). -/
def finishRead (va : Nat) (fl : AccessFlags) (i pa : Nat) (s : State) : State :=
  if fl.vpa then postFetch (memRead pa s).1 va fl i (memRead pa s).2
  else (memRead pa s).2.answer (some (memRead pa s).1) none

/-- Steps 5 to 8 of a translated read through entry `e` at index `i` (spec/41_translate_read.md R101). -/
def readThrough (va : Nat) (fl : AccessFlags) (i : Nat) (e : Pte) (s : State) : State :=
  let s2 := demote fl e s
  if !s2.ctl.supervisor && !pteUser e then takeFault (some 0x00) .privilegePage va fl i s2
  else if frameOverflows s.cfg e (pageOffset s.cfg va) then takeFault (some 0x00) .frameOutOfRange va fl i s2
  else finishRead va fl i (physicalAddress s.cfg e (pageOffset s.cfg va)) s2

/-- `TranslateRead(va, flags)` (spec/41_translate_read.md R101), with `va` reduced. -/
def translateRead (va : Nat) (fl : AccessFlags) (s : State) : State :=
  let s1 := forceSupervisor fl s
  let i := readIndex fl va s1
  let e := s1.pt.get i
  if ptePresent e then readThrough va fl i e s1 else takeFault (some 0x00) .pageNotPresent va fl i s1

/-- Steps 1 to 4 of a translated write, up to the physical address: the first check that fails, if one does
(spec/42_translate_write.md R130, R131, R133, R134). Writes never test `present` (R132). -/
def writeFault (va : Nat) (s : State) : Option FaultKind :=
  let e := s.pt.get (pageIndex s.cfg va)
  if !pteWritable e then some .readOnlyViolation
  else if !s.ctl.supervisor && !pteUser e then some .privilegePage
  else if frameOverflows s.cfg e (pageOffset s.cfg va) then some .frameOutOfRange
  else none

/-- The physical address of a translated write (spec/42_translate_write.md R134). -/
def writeAddress (va : Nat) (s : State) : Nat :=
  physicalAddress s.cfg (s.pt.get (pageIndex s.cfg va)) (pageOffset s.cfg va)

/-- `TranslateWrite(va, b)` (spec/42_translate_write.md R130), with `va` reduced. -/
def translateWrite (va : Nat) (b : Byte) (s : State) : State :=
  match writeFault va s with
  | some kind => takeFault none kind va flagsW (pageIndex s.cfg va) s
  | none => (memWrite (writeAddress va s) b s).answer none none

/-- `read(va, flags)` (spec/40_bus_facade.md R91). -/
def busRead (fl : AccessFlags) (va : Nat) (s : State) : State :=
  let ra := reduceAddress s.cfg va
  if s.ctl.enabled then translateRead ra fl s else (memRead ra s).2.answer (some (memRead ra s).1) none

/-- `write(va, b)` (spec/40_bus_facade.md R92). -/
def busWrite (va : Nat) (b : Byte) (s : State) : State :=
  let ra := reduceAddress s.cfg va
  if s.ctl.enabled then translateWrite ra b s else (memWrite ra b s).answer none none

/-- A fetched byte, as an instruction: step 8 while the MMU is enabled; while it is disabled the byte has no effect
(spec/40_bus_facade.md R91) and is returned as it is. -/
def fetchedByte (b : Byte) (va i : Nat) (vp : Bool) (s : State) : Host.Outcome State Fault Refusal :=
  serve
    (fun x =>
      if x.ctl.enabled then postFetch b (reduceAddress x.cfg va) { vpa := true, vp := vp } i x
      else x.answer (some b) none)
    s

end Sys2Proof.Machine
end

