-- ==== Sys2Proof/Machine/FetchedBytes.lean ====
section
/-! DEFINITION. The meanings of the five fetched bytes of spec/opcode_table.json (spec/30_encoding.md R73). Whether a
byte other than 0x78 is forbidden is the configuration's (D8). -/

namespace Sys2Proof.Machine

/-- 0x40, RTI (spec/41_translate_read.md R110). -/
def execRtiByte (va i : Nat) (vp : Bool) (s : State) : Host.Outcome State Fault Refusal := fetchedByte 0x40 va i vp s

/-- 0x78, SEI (spec/41_translate_read.md R111). -/
def execSeiByte (va i : Nat) (vp : Bool) (s : State) : Host.Outcome State Fault Refusal := fetchedByte 0x78 va i vp s

/-- 0xCB, WAI in REFCONF (spec/41_translate_read.md R111, D8). -/
def execWaiByte (va i : Nat) (vp : Bool) (s : State) : Host.Outcome State Fault Refusal := fetchedByte 0xCB va i vp s

/-- 0xDB, STP in REFCONF (spec/41_translate_read.md R111, D8). -/
def execStpByte (va i : Nat) (vp : Bool) (s : State) : Host.Outcome State Fault Refusal := fetchedByte 0xDB va i vp s

/-- 0xFB, XCE in REFCONF (spec/41_translate_read.md R111, D8). -/
def execXceByte (va i : Nat) (vp : Bool) (s : State) : Host.Outcome State Fault Refusal := fetchedByte 0xFB va i vp s

end Sys2Proof.Machine
end

