-- ==== Sys2Proof/Machine/Requests.lean ====
section
/-! DEFINITION. The meanings of the eight request kinds (spec/30_encoding.md R75, R76). -/

namespace Sys2Proof.Machine

/-- `R va`: `read(va, {})` (spec/40_bus_facade.md R91). -/
def execR (va : Nat) (s : State) : Host.Outcome State Fault Refusal := access (busRead flagsR va) s

/-- `V va`: `read(va, {VP})` (spec/40_bus_facade.md R91, spec/41_translate_read.md R102). -/
def execV (va : Nat) (s : State) : Host.Outcome State Fault Refusal := access (busRead flagsV va) s

/-- `F va`: `read(va, {VPA})` (spec/40_bus_facade.md R91). -/
def execF (va : Nat) (s : State) : Host.Outcome State Fault Refusal := access (busRead flagsF va) s

/-- `FV va`: `read(va, {VPA, VP})` (spec/40_bus_facade.md R91, D30). -/
def execFV (va : Nat) (s : State) : Host.Outcome State Fault Refusal := access (busRead flagsFV va) s

/-- `W va, b`: `write(va, b)` (spec/40_bus_facade.md R92). -/
def execW (va : Nat) (b : Byte) (s : State) : Host.Outcome State Fault Refusal := access (busWrite va b) s

/-- Request kind 101: "A model refuses them: such a request has no step" (spec/30_encoding.md R76). -/
def execWriteVp (_ : State) : Host.Outcome State Fault Refusal := .refused .writeWithFlags

/-- Request kind 110 (spec/30_encoding.md R76). -/
def execWriteVpa (_ : State) : Host.Outcome State Fault Refusal := .refused .writeWithFlags

/-- Request kind 111 (spec/30_encoding.md R76). -/
def execWriteVpaVp (_ : State) : Host.Outcome State Fault Refusal := .refused .writeWithFlags

end Sys2Proof.Machine
end

