-- ==== Sys2Proof/Machine/Dispatch.lean ====
section
/-! DEFINITION. What each instruction does: one arm a constructor, each a direct call of its own meaning. -/

namespace Sys2Proof.Machine

def exec (i : Instr) (s : State) : Host.Outcome State Fault Refusal :=
  match i with
  | .r va => Sys2Proof.Machine.execR va s
  | .v va => Sys2Proof.Machine.execV va s
  | .f va => Sys2Proof.Machine.execF va s
  | .fv va => Sys2Proof.Machine.execFV va s
  | .w va b => Sys2Proof.Machine.execW va b s
  | .writeVp => Sys2Proof.Machine.execWriteVp s
  | .writeVpa => Sys2Proof.Machine.execWriteVpa s
  | .writeVpaVp => Sys2Proof.Machine.execWriteVpaVp s
  | .rtiByte va index vp => Sys2Proof.Machine.execRtiByte va index vp s
  | .seiByte va index vp => Sys2Proof.Machine.execSeiByte va index vp s
  | .waiByte va index vp => Sys2Proof.Machine.execWaiByte va index vp s
  | .stpByte va index vp => Sys2Proof.Machine.execStpByte va index vp s
  | .xceByte va index vp => Sys2Proof.Machine.execXceByte va index vp s

end Sys2Proof.Machine
end

