-- ==== Sys2Proof/Machine/Step.lean ====
section
/-! DEFINITION. One step: the block takes what stands at the head of `State.pending` (log entry 4). The block has no
program counter and fetches no instruction of its own (spec/10_state.md R31): the engine presents one request at a
time (spec/20_memory.md R48), and the host acts between accesses (spec/92_eei_decisions.md D33). -/

namespace Sys2Proof.Machine

/-- What the engine presents: the decoded instruction, or its word's rejection. A fetched byte that has no row of
its own goes through step 8 like any other (spec/41_translate_read.md R111). -/
def serveWord (word : BusWord) (s : State) : Host.Outcome State Fault Refusal :=
  match decode word with
  | .ok i => exec i s
  | .error (.noRow b va i vp) => fetchedByte b va i vp s
  | .error .reservedBits => .refused .undecodableWord

/-- One step. With nothing presented the block does nothing (DEDUCED, log entry 4). -/
def step (s : State) : Host.Outcome State Fault Refusal :=
  match s.pending with
  | [] => serve (fun x => x) s
  | .engine word :: rest => serveWord word { s with pending := rest }
  | .host b :: rest => hostAppend b { s with pending := rest }

/-- `s` with one more word presented, before everything else that is pending: the next step runs it. -/
def State.withFetchWord (s : State) (nbits w : Nat) : State :=
  { s with pending := .engine (tableWord nbits w) :: s.pending }

end Sys2Proof.Machine
end

