-- ==== Sys2Proof/Machine/Loader.lean ====
section
/-! DEFINITION. The image loader (spec/70_reset_and_hazards.md R202, R203). It runs before the first access and writes
memory directly, past the dispatcher. -/

namespace Sys2Proof.Machine

/-- Copies bytes to consecutive places from `at`, at most `room` of them. -/
def copyImage (image : List Byte) (start room : Nat) (m : Memory) : Memory :=
  match image, room with
  | [], _ => m
  | _ :: _, 0 => m
  | b :: rest, n + 1 => copyImage rest (start + 1) n (m.write start b)

/-- `load(image, LOAD_OFFSET)` (spec/70_reset_and_hazards.md R202). -/
def State.loadImage (s : State) (image : List Byte) : State :=
  { s with mem := copyImage image (loadOffset s.cfg) (loadWindow s.cfg) s.mem }

/-- A launch: power-on with the given (arbitrary) contents, then the load. An image that cannot be opened (`none`)
leaves no initial state (spec/70_reset_and_hazards.md R203), and neither does a configuration a model refuses. -/
def State.launch (cfg : Config) (mem : Memory) (pt : PageTable) (image : Option (List Byte)) : Option State :=
  if configValid cfg then image.map (fun bytes => (State.powerOn cfg mem pt).loadImage bytes) else none

end Sys2Proof.Machine
end

