-- ==== Sys2Proof/Machine/PseudoOps.lean ====
section
/-! DEFINITION. The pseudo-operations of spec/30_encoding.md R78, as the requests they expand to. "The hardware has
none": they are notation for programs of this block. -/

namespace Sys2Proof.Machine

/-- The address of a control register, `CTL_<name>_ADDR` (spec/00_scope.md R8). -/
def ctlAddress (c : Config) (r : CtlReg) : Nat :=
  match r with
  | .enabled => c.ctlEnabled
  | .supervisor => c.ctlSupervisor
  | .shadow => c.ctlShadow
  | .rtiToUser => c.ctlRtiToUser

/-- `WPTE i, e`: the low byte, then the high byte. -/
def wpte (c : Config) (i : Nat) (e : Pte) : List Instr :=
  [.w (c.ptBase + 2 * i) (pteLow e), .w (c.ptBase + 2 * i + 1) (pteHigh e)]

/-- `RPTE i`: the low byte, then the high byte; the result is `pteOfBytes hi lo`. -/
def rpte (c : Config) (i : Nat) : List Instr := [.r (c.ptBase + 2 * i), .r (c.ptBase + 2 * i + 1)]

/-- `WCTL name, b`. -/
def wctl (c : Config) (r : CtlReg) (b : Byte) : List Instr := [.w (ctlAddress c r) b]

end Sys2Proof.Machine
end

