-- ==== Sys2Proof/Safety.lean ====
section
/-! DEFINITION. The invariant every step keeps, what a safe run is, and the whole-system reading of a fault
(spec/60_exceptions.md R176, D20): the block model goes on after an `Abort`, a whole-system run ends at it. -/

namespace Sys2Proof.Safety

open Sys2Proof.Machine

/-- What holds of every state a run reaches: the configuration is one a model takes; memory and page table are in
canonical form, inside their sizes (spec/10_state.md R20, R21); in the unpaged profile the MMU is off
(spec/43_dispatcher.md R160). -/
def Inv (s : State) : Prop :=
  configValid s.cfg = true ∧ s.mem.wf s.cfg.memSize = true ∧ s.pt.wf s.cfg.nEntries = true ∧
    (s.cfg.profile = .unpaged → s.ctl.enabled = false)

/-- The block serves requests: no model-level stop stands in the way. -/
def Serving (s : State) : Prop := configValid s.cfg = true ∧ s.env.halted = none ∧ s.env.dump = none

/-- The state after step 1 of a translated read (spec/41_translate_read.md R102). -/
def afterForce (fl : AccessFlags) (s : State) : State := s.setMode (fl.vp || s.ctl.supervisor)

/-- The index a translated read of `va` uses, after shadowing (spec/41_translate_read.md R103, R104). -/
def usedIndex (fl : AccessFlags) (va : Nat) (s : State) : Nat :=
  readIndex fl (reduceAddress s.cfg va) (afterForce fl s)

/-- The entry a translated read of `va` uses (spec/41_translate_read.md R106). -/
def usedEntry (fl : AccessFlags) (va : Nat) (s : State) : Pte := s.pt.get (usedIndex fl va s)

/-- The mode a translated read through a present entry has after steps 1 and 5 (spec/41_translate_read.md R102,
R107). -/
def modeAtCheck (fl : AccessFlags) (va : Nat) (s : State) : Bool :=
  (fl.vp || s.ctl.supervisor) && !(fl.vpa && pteUser (usedEntry fl va s))

/-- The physical address of a translated read of `va` (spec/41_translate_read.md R109). -/
def readAddress (fl : AccessFlags) (va : Nat) (s : State) : Nat :=
  physicalAddress s.cfg (usedEntry fl va s) (pageOffset s.cfg (reduceAddress s.cfg va))

/-- A translated read of `va` passes steps 4, 6 and 7. -/
def readAllowed (fl : AccessFlags) (va : Nat) (s : State) : Bool :=
  ptePresent (usedEntry fl va s) && (modeAtCheck fl va s || pteUser (usedEntry fl va s)) &&
    !frameOverflows s.cfg (usedEntry fl va s) (pageOffset s.cfg (reduceAddress s.cfg va))

/-- Where the physical access of a write to `va` happens, if it happens: the address `busWrite` gives to `memWrite`. -/
def writePlace (va : Nat) (s : State) : Option Nat :=
  if s.ctl.enabled then
    if writeFault (reduceAddress s.cfg va) s = none then some (writeAddress (reduceAddress s.cfg va) s) else none
  else some (reduceAddress s.cfg va)

/-- Where the physical access of a read of `va` happens, if it happens: the address `busRead` gives to `memRead`. -/
def readPlace (fl : AccessFlags) (va : Nat) (s : State) : Option Nat :=
  if s.ctl.enabled then if readAllowed fl va s then some (readAddress fl va s) else none
  else some (reduceAddress s.cfg va)

/-- The first fault of a run so far. -/
def firstAbort (l : List Event) : Option FaultRecord :=
  match l with
  | [] => none
  | .abort r :: _ => some r
  | .output _ :: rest => firstAbort rest
  | .trace _ :: rest => firstAbort rest
  | .exit _ :: rest => firstAbort rest

/-- A run is safe as long as no access has faulted (spec/60_exceptions.md R176: a faulted run is never counted as a
normal end). -/
def Safe (s : State) : Prop := firstAbort s.env.events = none

/-- One step of a whole-system run: it ends at the first `Abort` event, with the fault recorded (log entry 3),
also where the faulting access reached the watchdog's limit (DESIGN CHOICE, log entry 17). -/
def systemStep (s : State) : Host.Outcome State Fault Refusal :=
  match firstAbort s.env.events with
  | some r => .fault (.aborted r)
  | none => step s

/-- The eight device addresses, the page-table window and the ROM window of the paged profile, as spec/43_dispatcher.md
R153 lists them, each with its size. -/
def statedRanges (c : Config) : List (Nat × Nat) :=
  [(c.consoleOut, 1), (c.consoleStatus, 1), (c.consoleIn, 1), (c.trace, 1), (c.ctlEnabled, 1),
    (c.ctlSupervisor, 1), (c.ctlShadow, 1), (c.ctlRtiToUser, 1), (c.ptBase, 2 * c.nEntries), (c.romBase, 4096)]

/-- The table of spec/30_encoding.md R67, row by row: what a read (without `VPA` and `VP`) and a write report, by
`present`, `writable`, `user`, and the mode. -/
def permissionTable (present writable user supervisor : Bool) : Option FaultKind × Option FaultKind :=
  match present, writable, user, supervisor with
  | false, false, false, true => (some .pageNotPresent, some .readOnlyViolation)
  | false, false, false, false => (some .pageNotPresent, some .readOnlyViolation)
  | false, false, true, true => (some .pageNotPresent, some .readOnlyViolation)
  | false, false, true, false => (some .pageNotPresent, some .readOnlyViolation)
  | false, true, false, true => (some .pageNotPresent, none)
  | false, true, false, false => (some .pageNotPresent, some .privilegePage)
  | false, true, true, true => (some .pageNotPresent, none)
  | false, true, true, false => (some .pageNotPresent, none)
  | true, false, false, true => (none, some .readOnlyViolation)
  | true, false, false, false => (some .privilegePage, some .readOnlyViolation)
  | true, false, true, true => (none, some .readOnlyViolation)
  | true, false, true, false => (none, some .readOnlyViolation)
  | true, true, false, true => (none, none)
  | true, true, false, false => (some .privilegePage, some .privilegePage)
  | true, true, true, true => (none, none)
  | true, true, true, false => (none, none)

/-- Runs instructions one after another. -/
def runInstrs (l : List Instr) (s : State) : Host.Outcome State Fault Refusal :=
  match l with
  | [] => .next s
  | i :: rest =>
    match exec i s with
    | .next t => runInstrs rest t
    | .fault r => .fault r
    | .refused r => .refused r

end Sys2Proof.Safety
end

