-- ==== Sys2Proof/Certificates/Slice0/Obligations.lean ====
section
/-! DEFINITION. The statements for the provers. Each docstring names the rule of spec/ it formalises. Statements
quantify over every configuration a model takes, since the configuration is part of the state. -/

open Sys2Proof Sys2Proof.Machine Sys2Proof.Safety

/-! ### Encodings -/

/-- No bit of an encoding is dropped: decoding the encoding of any well-formed instruction gives it back
(spec/30_encoding.md R75; the operand bits of the fetched bytes are the model's, log entry 8). -/
def Obligations.DecodeOfEncodeIsTheInstruction : Prop :=
  ∀ i : Instr, i.wellFormed = true → decode (encode i) = .ok i

/-- The other direction: what is decoded is well formed, and where every bit of the word has a meaning (a write
request, a fetched byte) encoding gives the word back. The requests are of spec/30_encoding.md R75; a fetched byte's
address, index and `VP` bits are the model's choice (log entry 8). -/
def Obligations.DecodedInstructionsEncodeBack : Prop :=
  ∀ (word : BusWord) (i : Instr), decode word = .ok i →
    i.wellFormed = true ∧ ((∃ va b, i = .w va b) ∨ (∃ x, word = .fetched x) → encode i = word)

/-- Requests written out from spec/30_encoding.md R75 and the encodings of spec/95_test_vectors.md (P1, P2, P3), and the
byte values of spec/opcode_table.json, decode to what they stand for. Two things are the model's choice: that the word
with a stray bit (bit 38) is refused (log entry 7), and that a fetched byte whose operand bits are zero has the operands
0, 0 and false (log entry 8). -/
def Obligations.WordsOfTheSpecDecodeAsWritten : Prop :=
  decodeTableWord 40 0x400E00000 = some (.w 0x00E000 0x00) ∧
    decodeTableWord 40 0x4000001042 = none ∧
    decodeTableWord 40 0x400001042 = some (.w 0x000010 0x42) ∧
    decodeTableWord 40 0x200F01900 = some (.f 0x00F019) ∧
    decodeTableWord 40 0x000001000 = some (.r 0x000010) ∧
    decodeTableWord 40 0x100FFFE00 = some (.v 0x00FFFE) ∧
    decodeTableWord 40 0x300FFFC00 = some (.fv 0x00FFFC) ∧
    decodeTableWord 40 0x500000000 = some .writeVp ∧
    decodeTableWord 40 0x600000000 = some .writeVpa ∧
    decodeTableWord 40 0x700000000 = some .writeVpaVp ∧
    decodeTableWord 8 0x40 = some (.rtiByte 0 0 false) ∧
    decodeTableWord 8 0x78 = some (.seiByte 0 0 false) ∧
    decodeTableWord 8 0xCB = some (.waiByte 0 0 false) ∧
    decodeTableWord 8 0xDB = some (.stpByte 0 0 false) ∧
    decodeTableWord 8 0xFB = some (.xceByte 0 0 false)

/-- Request kinds 101, 110 and 111 are refused, in every state and with every address and data bits
(spec/30_encoding.md R76: "A model refuses them: such a request has no step"). -/
def Obligations.WriteKindsWithFlagsAreRefused : Prop :=
  (∀ s, exec .writeVp s = .refused .writeWithFlags ∧ exec .writeVpa s = .refused .writeWithFlags ∧
      exec .writeVpaVp s = .refused .writeWithFlags) ∧
    ∀ (s : State) (x : BitVec 40) (rest : List BusItem), s.pending = .engine (.request x) :: rest →
      x.extractLsb' 35 5 = 0 → x.getLsbD 34 = true → (x.getLsbD 33 || x.getLsbD 32) = true →
      step s = .refused .writeWithFlags

/-- A word with a bit set above its format is refused by name (the model's choice, log entry 7). -/
def Obligations.WordsWithStrayBitsAreRefused : Prop :=
  ∀ (s : State) (word : BusWord) (rest : List BusItem), s.pending = .engine word :: rest →
    ((∃ x : BitVec 40, word = .request x ∧ x.extractLsb' 35 5 ≠ 0) ∨
      (∃ x : BitVec 48, word = .fetched x ∧ x.extractLsb' 43 5 ≠ 0)) →
    step s = .refused .undecodableWord

/-! ### The step -/

/-- A step runs the instruction the presented word decodes to, at the state that has taken the word off the queue; and
`withFetchWord` presents exactly its word (the model's queue, log entry 4). -/
def Obligations.StepRunsThePresentedInstruction : Prop :=
  (∀ (s : State) (word : BusWord) (rest : List BusItem) (i : Instr), s.pending = .engine word :: rest →
      decode word = .ok i → step s = exec i { s with pending := rest }) ∧
    ∀ (s : State) (nbits w : Nat) (i : Instr), decodeTableWord nbits w = some i →
      step (s.withFetchWord nbits w) = exec i s

/-- Between accesses the host appends to console input and nothing else changes; with nothing presented nothing
changes (spec/92_eei_decisions.md D13, D33; the queue is the model's, log entry 4). -/
def Obligations.HostAppendsConsoleInputBetweenAccesses : Prop :=
  ∀ s : State, Serving s →
    (∀ b rest, s.pending = .host b :: rest →
      step s = .next { s with pending := rest, env := { s.env with input := s.env.input ++ [b] } }) ∧
      (s.pending = [] → step s = .next s)

/-- A fetched byte with no row of its own is returned as it is, unless the configuration forbids it and the MMU is
enabled in user mode (spec/41_translate_read.md R111; the word is the model's, log entry 8). -/
def Obligations.FetchedBytesWithoutARowGoThroughStepEight : Prop :=
  ∀ (s : State) (word : BusWord) (rest : List BusItem) (b : Byte) (va index : Nat) (vp : Bool),
    Serving s → s.pending = .engine word :: rest → decode word = .error (.noRow b va index vp) →
    step s = .next
      (if s.ctl.enabled = true ∧ s.ctl.supervisor = false ∧ b ∈ s.cfg.privOpcodes then
        ({ s with pending := rest }.emit (.abort ⟨.privilegeOpcode, va % s.cfg.memSize, ⟨true, vp⟩, index⟩)).answer
          (some s.cfg.nopSubst) (some ⟨.privilegeOpcode, va % s.cfg.memSize, ⟨true, vp⟩, index⟩)
      else { s with pending := rest }.answer (some b) none)

/-- Once the run has ended (an unpaged exit write, or the watchdog) no instruction answers a next state
(spec/43_dispatcher.md R162, spec/60_exceptions.md R190), and no step does: that a host append and an idle step stop
then like an access is the model's choice (log entry 4). -/
def Obligations.AnEndedRunServesNothing : Prop :=
  ∀ s : State, configValid s.cfg = true →
    (s.env.halted.isSome = true →
      (∀ i, exec i s = .fault .runHalted ∨ exec i s = .refused .writeWithFlags) ∧ ∀ t, step s ≠ .next t) ∧
    (s.env.halted = none → s.env.dump.isSome = true →
      (∀ i, exec i s = .fault .watchdogExpired ∨ exec i s = .refused .writeWithFlags) ∧ ∀ t, step s ≠ .next t)

/-- A paged configuration in which two of the ranges share an address, or one does not lie below `DEVICE_LIMIT`, is
refused: no instruction and no step answers a next state (spec/43_dispatcher.md R153). -/
def Obligations.OverlappingConfigurationsAreRefused : Prop :=
  ∀ s : State, s.cfg.profile = .paged →
    ((∃ j k a, ∃ (hj : j < (statedRanges s.cfg).length) (hk : k < (statedRanges s.cfg).length), j < k ∧
        ((statedRanges s.cfg)[j].1 ≤ a ∧ a < (statedRanges s.cfg)[j].1 + (statedRanges s.cfg)[j].2) ∧
        ((statedRanges s.cfg)[k].1 ≤ a ∧ a < (statedRanges s.cfg)[k].1 + (statedRanges s.cfg)[k].2)) ∨
      (∃ x ∈ statedRanges s.cfg, s.cfg.deviceLimit < x.1 + x.2)) →
    (∀ i, exec i s = .refused .invalidConfiguration ∨ exec i s = .refused .writeWithFlags) ∧ ∀ t, step s ≠ .next t

/-! ### Power-on and the invariant -/

/-- Every step keeps the invariant: the canonical forms, the bounds of memory and page table, the configuration, and
the MMU off in the unpaged profile (spec/10_state.md R20, R21, spec/43_dispatcher.md R160). -/
def Obligations.EveryStepKeepsTheInvariant : Prop :=
  ∀ s t : State, Inv s → step s = .next t → Inv t

/-- The invariant holds at reset, and the block serves there (the reset contents are the model's, log entries 1, 2). -/
def Obligations.ResetMeetsTheInvariantAndServes : Prop := Inv State.reset ∧ Serving State.reset

/-- Power-on and the load, for every contents of memory and page table (spec/10_state.md R33,
spec/70_reset_and_hazards.md R202, R203); the watchdog's count starts at 0 (spec/60_exceptions.md R190). -/
def Obligations.LaunchSetsThePowerOnValuesAndLoadsTheImage : Prop :=
  ∀ (cfg : Config) (mem : Memory) (pt : PageTable), configValid cfg = true → mem.wf cfg.memSize = true →
    pt.wf cfg.nEntries = true →
    State.launch cfg mem pt none = none ∧
    ∀ image : List Byte, ∃ s, State.launch cfg mem pt (some image) = some s ∧ Inv s ∧ Serving s ∧
      s.ctl.enabled = false ∧ s.ctl.supervisor = true ∧ s.ctl.shadow = false ∧ s.ctl.rtiToUser = false ∧
      s.env.input = [] ∧ s.env.events = [] ∧ s.env.halted = none ∧ s.env.accesses = 0 ∧ s.pt = pt ∧
      ∃ off room,
        ((cfg.profile = .paged ∧ off = 0xF000 ∧ room = 4096) ∨
          (cfg.profile = .unpaged ∧ off = 0x1000 ∧ room = cfg.loadWindowUnpaged)) ∧
        (∀ k, k < min image.length room → some (s.mem.read (off + k)) = image[k]?) ∧
        ∀ a, (a < off ∨ off + min image.length room ≤ a) → s.mem.read a = mem.read a

/-! ### Rules of the whole machine -/

/-- The mode changes only in the ways spec/60_exceptions.md R184 lists. A physical read of an RTI fetch sees the mode
after steps 1 and 5. The RTI byte as an instruction of its own is the model's form of the RTI fetch (log entry 8). -/
def Obligations.ModeChangesOnlyInTheListedWays : Prop :=
  State.reset.ctl.supervisor = true ∧
  (∀ (i : Instr) (s t : State), exec i s = .next t →
    (s.ctl.supervisor = false → t.ctl.supervisor = true →
      (s.ctl.enabled = true ∧ ∃ fl va, fl.vp = true ∧ i = readInstr fl va) ∨
      (∃ va b, i = .w va b ∧ writePlace va s = some s.cfg.ctlSupervisor ∧ b.getLsbD 0 = true)) ∧
    (s.ctl.supervisor = true → t.ctl.supervisor = false →
      (s.ctl.enabled = true ∧ ∃ fl va, fl.vpa = true ∧ i = readInstr fl va ∧
        (usedEntry fl va s).getLsbD 15 = true ∧ (usedEntry fl va s).getLsbD 13 = true) ∨
      (s.ctl.enabled = true ∧ s.ctl.rtiToUser = true ∧
        ((∃ fl va, fl.vpa = true ∧ i = readInstr fl va ∧ readAllowed fl va s = true ∧
            (memRead (readAddress fl va s) (s.setMode (modeAtCheck fl va s))).1 = 0x40) ∨
          ∃ va index vp, i = .rtiByte va index vp)) ∨
      (∃ va b, i = .w va b ∧ writePlace va s = some s.cfg.ctlSupervisor ∧ b.getLsbD 0 = false))) ∧
  ∀ s t : State, step s = .next t → t.ctl.supervisor ≠ s.ctl.supervisor →
    ∃ word rest i, s.pending = .engine word :: rest ∧ decode word = .ok i

/-- A write that reaches a control address sets the matching boolean to bit 0 of the byte, in either mode, and changes
nothing else but the answer and the access count; and nothing else changes `enabled`, `shadow` or `rti_to_user`
(spec/43_dispatcher.md R149). -/
def Obligations.OnlyControlWritesChangeTheControlBooleans : Prop :=
  (∀ (s : State) (va : Nat) (b : Byte) (r : CtlReg), Serving s → s.cfg.profile = .paged →
    writePlace va s = some (ctlAddress s.cfg r) →
    exec (.w va b) s = .next (countAccess ({ s with ctl := ctlSet r (b.getLsbD 0) s.ctl }.answer none none))) ∧
  ∀ (i : Instr) (s t : State) (r : CtlReg), r ≠ .supervisor → exec i s = .next t →
    ctlGet r t.ctl ≠ ctlGet r s.ctl →
    ∃ va b, i = .w va b ∧ writePlace va s = some (ctlAddress s.cfg r) ∧ ctlGet r t.ctl = b.getLsbD 0

/-- Only a write through the table window changes the page table, and only a write to RAM changes memory
(spec/10_state.md R34). -/
def Obligations.OnlyWritesChangeMemoryAndThePageTable : Prop :=
  ∀ (i : Instr) (s t : State), exec i s = .next t →
    (t.pt ≠ s.pt → ∃ va b pa, i = .w va b ∧ writePlace va s = some pa ∧ s.cfg.profile = .paged ∧
      s.cfg.ptBase ≤ pa ∧ pa < s.cfg.ptBase + 2 * s.cfg.nEntries) ∧
    (t.mem ≠ s.mem → ∃ va b pa, i = .w va b ∧ writePlace va s = some pa ∧ busTarget s.cfg pa = .ram)

/-- One access raises at most one fault, emitted as the last event before the data is returned, and its record carries
the reduced address and the flags; a faulting write changes nothing but that (spec/60_exceptions.md R171, R173,
R175). -/
def Obligations.EachAccessRaisesAtMostOneFault : Prop :=
  (∀ (fl : AccessFlags) (va : Nat) (s t : State), exec (readInstr fl va) s = .next t →
    ∃ d, (t.reply = some ⟨some d, none⟩ ∧ t.env.events = s.env.events) ∨
      (s.ctl.enabled = true ∧ ∃ r, t.reply = some ⟨some d, some r⟩ ∧ t.env.events = s.env.events ++ [.abort r] ∧
        r.va = va % s.cfg.memSize ∧ r.flags = fl)) ∧
  ∀ (va : Nat) (b : Byte) (s t : State), exec (.w va b) s = .next t →
    (t.reply = some ⟨none, none⟩ ∧ (writePlace va s).isSome = true ∧
      ∃ new, t.env.events = s.env.events ++ new ∧ ∀ r, Event.abort r ∉ new) ∨
    (s.ctl.enabled = true ∧ writePlace va s = none ∧ ∃ r, r.va = va % s.cfg.memSize ∧ r.flags = ⟨false, false⟩ ∧
      t = countAccess ((s.emit (.abort r)).answer none (some r)))

/-- While the MMU is disabled every access acts at the physical address `va mod MEMSIZE` and raises no fault
(spec/40_bus_facade.md R94). -/
def Obligations.DisabledAccessesAreIdentityMappedAndFaultFree : Prop :=
  ∀ (s : State) (va : Nat), Serving s → s.ctl.enabled = false →
    (∀ fl, exec (readInstr fl va) s =
      .next (countAccess ((memRead (va % s.cfg.memSize) s).2.answer (some (memRead (va % s.cfg.memSize) s).1) none))) ∧
    (∀ b, exec (.w va b) s = .next (countAccess ((memWrite (va % s.cfg.memSize) b s).answer none none))) ∧
    ∀ i t, exec i s = .next t → ∀ r, Event.abort r ∈ t.env.events → Event.abort r ∈ s.env.events

/-- User code is isolated: in user mode, while no entry with `user = 1` maps a control register or a byte of the table
window, no run of steps without a vector pull changes the page table, the control booleans or the mode
(spec/60_exceptions.md R185). -/
def Obligations.UserCodeCannotChangeTranslationOrMode : Prop :=
  ∀ (s t : State) (n : Nat), Inv s → s.ctl.enabled = true → s.ctl.supervisor = false →
    (∀ index off, index < s.cfg.nEntries → off < s.cfg.memSize / s.cfg.nEntries →
      (s.pt.get index).getLsbD 13 = true →
      ∀ r, physicalAddress s.cfg (s.pt.get index) off ≠ ctlAddress s.cfg r ∧
        ¬(s.cfg.ptBase ≤ physicalAddress s.cfg (s.pt.get index) off ∧
          physicalAddress s.cfg (s.pt.get index) off < s.cfg.ptBase + 2 * s.cfg.nEntries)) →
    (∀ word, BusItem.engine word ∈ s.pending → ∀ fl va, decode word = .ok (readInstr fl va) → fl.vp = false) →
    core.run n s = .next t →
    t.pt = s.pt ∧ t.ctl = s.ctl ∧ t.cfg = s.cfg

/-- A user-mode read learns only what user pages hold: two states that agree but for bytes of memory outside every
present user page, and for the free values still to come, answer a plain read or a fetch alike
(spec/41_translate_read.md R108, R111). Where the read reaches an address whose read is a draw, the two must draw the
same free input: the same count of draws, in the model's form of `draw()` (log entry 5). -/
def Obligations.UserReadsLearnOnlyWhatUserPagesHold : Prop :=
  ∀ (s : State) (mem' : Memory) (n : Nat) (fl : AccessFlags) (va : Nat), Serving s → s.ctl.enabled = true →
    s.ctl.supervisor = false → fl.vp = false →
    (n = s.draws ∨ ∀ pa, readPlace fl va s = some pa → busTarget s.cfg pa ≠ .trace ∧
      busTarget s.cfg pa ≠ .unpagedOut ∧ busTarget s.cfg pa ≠ .unpagedExit) →
    (∀ index off, index < s.cfg.nEntries → off < s.cfg.memSize / s.cfg.nEntries →
      (s.pt.get index).getLsbD 15 = true → (s.pt.get index).getLsbD 13 = true →
      mem'.read (physicalAddress s.cfg (s.pt.get index) off) = s.mem.read (physicalAddress s.cfg (s.pt.get index) off)) →
    ∃ t t', exec (readInstr fl va) s = .next t ∧
      exec (readInstr fl va) { s with mem := mem', draws := n } = .next t' ∧
      t'.reply = t.reply ∧ t'.ctl = t.ctl ∧ t'.env.events = t.env.events ∧ t'.env.input = t.env.input

/-- A whole-system run ends at the first `Abort` event, with the fault recorded (spec/60_exceptions.md R176, D20); that it
ends so too where the faulting access reached the watchdog's limit is the model's choice (log entry 17). -/
def Obligations.AWholeSystemRunEndsAtItsFirstFault : Prop :=
  ∀ (i : Instr) (s t : State) (d : Option Byte) (r : FaultRecord), Safe s → systemStep s = step s ∧
    (exec i s = .next t → t.reply = some ⟨d, some r⟩ → systemStep t = .fault (.aborted r))

/-! ### Read translation -/

/-- Step 4: a read through an entry with `present = 0` ends with `PageNotPresent`; only step 1's forcing is kept, no
physical read happens, and 0x00 is returned (spec/41_translate_read.md R106). -/
def Obligations.ReadsThroughNotPresentEntriesFault : Prop :=
  ∀ (fl : AccessFlags) (va : Nat) (s : State), Serving s → s.ctl.enabled = true →
    (s.pt.get (usedIndex fl va s)).getLsbD 15 = false →
    exec (readInstr fl va) s = .next (countAccess
      (((s.setMode (fl.vp || s.ctl.supervisor)).emit
        (.abort ⟨.pageNotPresent, va % s.cfg.memSize, fl, usedIndex fl va s⟩)).answer (some 0x00)
        (some ⟨.pageNotPresent, va % s.cfg.memSize, fl, usedIndex fl va s⟩)))

/-- Step 6: a user-mode read, plain or `VPA`, through a present entry with `user = 0` ends with `PrivilegeViolation`,
no physical read happens, and 0x00 is returned (spec/41_translate_read.md R108). A vector pull is never stopped so. -/
def Obligations.UserReadsOfSupervisorPagesFault : Prop :=
  (∀ (fl : AccessFlags) (va : Nat) (s : State), Serving s → s.ctl.enabled = true → s.ctl.supervisor = false →
    fl.vp = false → (s.pt.get (usedIndex fl va s)).getLsbD 15 = true →
    (s.pt.get (usedIndex fl va s)).getLsbD 13 = false →
    exec (readInstr fl va) s = .next (countAccess
      ((s.emit (.abort ⟨.privilegePage, va % s.cfg.memSize, fl, usedIndex fl va s⟩)).answer (some 0x00)
        (some ⟨.privilegePage, va % s.cfg.memSize, fl, usedIndex fl va s⟩)))) ∧
  ∀ (fl : AccessFlags) (va : Nat) (s t : State), fl.vp = true → exec (readInstr fl va) s = .next t →
    ∀ d r, t.reply = some ⟨d, some r⟩ → r.kind ≠ .privilegePage

/-- Step 7, for the reads without `VPA`: the byte at `(frame * PAGE_SIZE + off) mod MEMSIZE` is returned; under
`FRAME_OVERFLOW = fault` an address past the physical space is the model-only outcome (spec/41_translate_read.md R109). -/
def Obligations.PlainReadsReturnThePhysicalByte : Prop :=
  ∀ (fl : AccessFlags) (va : Nat) (s : State), Serving s → s.ctl.enabled = true → fl.vpa = false →
    (usedEntry fl va s).getLsbD 15 = true →
    ((fl.vp || s.ctl.supervisor) = true ∨ (usedEntry fl va s).getLsbD 13 = true) →
    ∀ raw, raw = ((usedEntry fl va s).toNat % 2 ^ s.cfg.frameBits) * (s.cfg.memSize / s.cfg.nEntries) +
        (va % s.cfg.memSize) % (s.cfg.memSize / s.cfg.nEntries) →
    (raw < s.cfg.memSize ∨ s.cfg.frameOverflow = .wrap →
      exec (readInstr fl va) s = .next (countAccess
        ((memRead (raw % s.cfg.memSize) (s.setMode (fl.vp || s.ctl.supervisor))).2.answer
          (some (memRead (raw % s.cfg.memSize) (s.setMode (fl.vp || s.ctl.supervisor))).1) none))) ∧
    (s.cfg.memSize ≤ raw → s.cfg.frameOverflow = .fault →
      exec (readInstr fl va) s = .next (countAccess
        (((s.setMode (fl.vp || s.ctl.supervisor)).emit
          (.abort ⟨.frameOutOfRange, va % s.cfg.memSize, fl, usedIndex fl va s⟩)).answer (some 0x00)
          (some ⟨.frameOutOfRange, va % s.cfg.memSize, fl, usedIndex fl va s⟩))))

/-- Steps 5, 7 and 8 of a `VPA` read that is allowed and whose byte `b` step 8 lets through: `b` is returned, and the
mode is what steps 1 and 5 made it (spec/41_translate_read.md R101, R107, R109). -/
def Obligations.FetchesReturnTheBytesStepEightLetsThrough : Prop :=
  ∀ (fl : AccessFlags) (va : Nat) (s s' : State) (b : Byte), Serving s → s.ctl.enabled = true → fl.vpa = true →
    readAllowed fl va s = true →
    memRead (readAddress fl va s) (s.setMode (modeAtCheck fl va s)) = (b, s') →
    ((modeAtCheck fl va s = true ∧ (b ≠ 0x40 ∨ s.ctl.rtiToUser = false)) ∨
      (modeAtCheck fl va s = false ∧ b ∉ s.cfg.privOpcodes)) →
    exec (readInstr fl va) s = .next (countAccess (s'.answer (some b) none)) ∧
      s'.ctl.supervisor = modeAtCheck fl va s

/-- Step 1: a vector pull acts in every respect as from supervisor mode, and the forcing outlasts the access unless
`VPA` came with it (spec/41_translate_read.md R102). -/
def Obligations.VectorPullsForceSupervisorMode : Prop :=
  (∀ (fl : AccessFlags) (va : Nat) (s : State), fl.vp = true → s.ctl.enabled = true →
    exec (readInstr fl va) s = exec (readInstr fl va) { s with ctl := { s.ctl with supervisor := true } }) ∧
  ∀ (va : Nat) (s : State), Serving s → s.ctl.enabled = true →
    ∃ t, exec (.v va) s = .next t ∧ t.ctl.supervisor = true

/-- Step 3: the index a read uses. Fetches and vector pulls of page `SHADOW_PAGE` in supervisor mode, with `shadow` set,
use the last entry, whatever physical address it leads to; what every other entry holds then makes no difference, unless
the read is one of the table window itself, which shows entries; a plain data read, a user-mode fetch, an access of another page,
and every access while `shadow` is clear use the page's own entry (spec/41_translate_read.md R104). -/
def Obligations.OnlySupervisorFetchesAndVectorPullsAreShadowed : Prop :=
  (∀ (fl : AccessFlags) (va : Nat) (s : State), (fl.vp || s.ctl.supervisor) = true → (fl.vpa || fl.vp) = true →
    s.ctl.shadow = true → pageIndex s.cfg (va % s.cfg.memSize) = s.cfg.shadowPage →
    usedIndex fl va s = s.cfg.nEntries - 1) ∧
  (∀ (fl : AccessFlags) (va : Nat) (s : State) (pt' : PageTable), Serving s → s.ctl.enabled = true →
    (fl.vp || s.ctl.supervisor) = true → (fl.vpa || fl.vp) = true → s.ctl.shadow = true →
    pageIndex s.cfg (va % s.cfg.memSize) = s.cfg.shadowPage →
    pt'.get (s.cfg.nEntries - 1) = s.pt.get (s.cfg.nEntries - 1) →
    (∀ i high, busTarget s.cfg (readAddress fl va s) ≠ .table i high) →
    ∃ t, exec (readInstr fl va) s = .next t ∧
      exec (readInstr fl va) { s with pt := pt' } = .next { t with pt := pt' }) ∧
  ∀ (fl : AccessFlags) (va : Nat) (s : State),
    ((fl.vpa = false ∧ fl.vp = false) ∨ (fl.vp = false ∧ s.ctl.supervisor = false) ∨ s.ctl.shadow = false ∨
      pageIndex s.cfg (va % s.cfg.memSize) ≠ s.cfg.shadowPage) →
    usedIndex fl va s = (va % s.cfg.memSize) / (s.cfg.memSize / s.cfg.nEntries) % s.cfg.nEntries

/-- Step 5: a `VPA` read through a present user entry leaves user mode, whatever else the access does; no other read
through such an entry demotes, and those are allowed: only the model-only outcome can stop them
(spec/41_translate_read.md R107). -/
def Obligations.FetchesFromUserPagesDemote : Prop :=
  ∀ (fl : AccessFlags) (va : Nat) (s : State), Serving s → s.ctl.enabled = true →
    (usedEntry fl va s).getLsbD 15 = true → (usedEntry fl va s).getLsbD 13 = true →
    ∃ t, exec (readInstr fl va) s = .next t ∧
      t.ctl.supervisor = (if fl.vpa then false else fl.vp || s.ctl.supervisor) ∧
      ∀ d r, fl.vpa = false → t.reply = some ⟨d, some r⟩ → r.kind = .frameOutOfRange

/-- Step 8a: a supervisor fetch of 0x40 returns 0x40 without a fault; while `rti_to_user` is set it leaves user mode, with
`rti_to_user` kept, and while it is clear it changes nothing more (spec/41_translate_read.md R110). -/
def Obligations.SupervisorRtiFetchesDropToUserMode : Prop :=
  ∀ (fl : AccessFlags) (va : Nat) (s s' : State), Serving s → s.ctl.enabled = true → fl.vpa = true →
    readAllowed fl va s = true → modeAtCheck fl va s = true →
    memRead (readAddress fl va s) (s.setMode true) = (0x40, s') →
    exec (readInstr fl va) s = .next (countAccess
      ({ s' with ctl := { s.ctl with supervisor := !s.ctl.rtiToUser } }.answer (some 0x40) none))

/-- The fetched byte RTI by its own instruction: in supervisor mode it is returned without a fault, and leaves user mode
if and only if `rti_to_user` is set (spec/41_translate_read.md R110; the instruction's form is the model's, log entry
8). -/
def Obligations.TheRtiByteDropsSupervisorToUserMode : Prop :=
  ∀ (va index : Nat) (vp : Bool) (s : State), Serving s → s.ctl.enabled = true → s.ctl.supervisor = true →
    exec (.rtiByte va index vp) s =
      .next ({ s with ctl := { s.ctl with supervisor := !s.ctl.rtiToUser } }.answer (some 0x40) none)

/-- Step 8b: a user-mode fetch whose byte is in `PRIV_OPCODES` ends with `PrivilegeViolation` and `NOP_SUBST`; the
physical read and step 5's demotion stay. A read without `VPA` is never checked, and 0x40 is not in REFCONF's set
(spec/41_translate_read.md R111). -/
def Obligations.UserFetchesOfForbiddenBytesFault : Prop :=
  (∀ (fl : AccessFlags) (va : Nat) (s s' : State) (b : Byte), Serving s → s.ctl.enabled = true → fl.vpa = true →
    readAllowed fl va s = true → modeAtCheck fl va s = false →
    memRead (readAddress fl va s) (s.setMode false) = (b, s') → b ∈ s.cfg.privOpcodes →
    exec (readInstr fl va) s = .next (countAccess
      ((s'.emit (.abort ⟨.privilegeOpcode, va % s.cfg.memSize, fl, usedIndex fl va s⟩)).answer (some s.cfg.nopSubst)
        (some ⟨.privilegeOpcode, va % s.cfg.memSize, fl, usedIndex fl va s⟩)))) ∧
  (∀ (fl : AccessFlags) (va : Nat) (s t : State), fl.vpa = false → exec (readInstr fl va) s = .next t →
    ∀ d r, t.reply = some ⟨d, some r⟩ → r.kind ≠ .privilegeOpcode) ∧
  (0x40 : Byte) ∉ Config.refconf.privOpcodes

/-- A fetch is its translated read followed by the fetched byte's own instruction, for each of the table's five bytes
(spec/30_encoding.md R73; the instruction's operands are the model's, log entry 8). -/
def Obligations.AFetchIsItsReadThenTheFetchedByte : Prop :=
  ∀ (fl : AccessFlags) (va : Nat) (s s' : State) (b : Byte) (i : Instr), Serving s → s.ctl.enabled = true →
    fl.vpa = true → readAllowed fl va s = true →
    memRead (readAddress fl va s) (s.setMode (modeAtCheck fl va s)) = (b, s') →
    (i, b) ∈ [(.rtiByte va (usedIndex fl va s) fl.vp, 0x40), (.seiByte va (usedIndex fl va s) fl.vp, 0x78),
      (.waiByte va (usedIndex fl va s) fl.vp, 0xCB), (.stpByte va (usedIndex fl va s) fl.vp, 0xDB),
      (.xceByte va (usedIndex fl va s) fl.vp, (0xFB : Byte))] →
    ∃ t, exec i s' = .next t ∧ exec (readInstr fl va) s = .next (countAccess t)

/-- The forbidden fetched bytes in user mode, each by its own instruction: SEI in every configuration, the other three
where the configuration forbids them (spec/41_translate_read.md R111, spec/00_scope.md R9). -/
def Obligations.ForbiddenFetchedBytesFaultInUserMode : Prop :=
  ∀ (va index : Nat) (vp : Bool) (s : State) (i : Instr) (b : Byte), Serving s → s.ctl.enabled = true →
    s.ctl.supervisor = false →
    (i, b) ∈ [(.seiByte va index vp, 0x78), (.waiByte va index vp, 0xCB), (.stpByte va index vp, 0xDB),
      (.xceByte va index vp, (0xFB : Byte))] →
    (b = 0x78 ∨ b ∈ s.cfg.privOpcodes) →
    exec i s = .next
      ((s.emit (.abort ⟨.privilegeOpcode, va % s.cfg.memSize, ⟨true, vp⟩, index⟩)).answer (some s.cfg.nopSubst)
        (some ⟨.privilegeOpcode, va % s.cfg.memSize, ⟨true, vp⟩, index⟩))

/-- The fetched bytes everywhere else: while disabled, in supervisor mode (RTI with `rti_to_user` set apart), and in
user mode where the configuration does not forbid the byte, it is returned as it is and nothing else changes
(spec/41_translate_read.md R110, R111, spec/40_bus_facade.md R91). -/
def Obligations.OtherFetchedBytesAreReturnedUnchanged : Prop :=
  ∀ (va index : Nat) (vp : Bool) (s : State) (i : Instr) (b : Byte), Serving s →
    (i, b) ∈ [(.rtiByte va index vp, 0x40), (.seiByte va index vp, 0x78), (.waiByte va index vp, 0xCB),
      (.stpByte va index vp, 0xDB), (.xceByte va index vp, (0xFB : Byte))] →
    (s.ctl.enabled = false ∨ (s.ctl.supervisor = true ∧ (b ≠ 0x40 ∨ s.ctl.rtiToUser = false)) ∨
      (s.ctl.supervisor = false ∧ b ∉ s.cfg.privOpcodes)) →
    exec i s = .next (s.answer (some b) none)

/-! ### Write translation -/

/-- Step 2: a write through an entry with `writable = 0` ends with `ReadOnlyViolation`, before the user bit is looked
at, and nothing is written (spec/42_translate_write.md R131). The entry is the page's own, never the shadow's. -/
def Obligations.WritesThroughReadOnlyEntriesFault : Prop :=
  ∀ (va index : Nat) (b : Byte) (s : State), Serving s → s.ctl.enabled = true →
    index = (va % s.cfg.memSize) / (s.cfg.memSize / s.cfg.nEntries) % s.cfg.nEntries →
    (s.pt.get index).getLsbD 14 = false →
    exec (.w va b) s = .next (countAccess
      ((s.emit (.abort ⟨.readOnlyViolation, va % s.cfg.memSize, ⟨false, false⟩, index⟩)).answer none
        (some ⟨.readOnlyViolation, va % s.cfg.memSize, ⟨false, false⟩, index⟩)))

/-- Step 3: a user-mode write through a writable entry with `user = 0` ends with `PrivilegeViolation` and nothing is
written; a supervisor write never ends so, user page or not (spec/42_translate_write.md R133). -/
def Obligations.UserWritesToSupervisorPagesFault : Prop :=
  (∀ (va index : Nat) (b : Byte) (s : State), Serving s → s.ctl.enabled = true → s.ctl.supervisor = false →
    index = (va % s.cfg.memSize) / (s.cfg.memSize / s.cfg.nEntries) % s.cfg.nEntries →
    (s.pt.get index).getLsbD 14 = true → (s.pt.get index).getLsbD 13 = false →
    exec (.w va b) s = .next (countAccess
      ((s.emit (.abort ⟨.privilegePage, va % s.cfg.memSize, ⟨false, false⟩, index⟩)).answer none
        (some ⟨.privilegePage, va % s.cfg.memSize, ⟨false, false⟩, index⟩)))) ∧
  ∀ (va : Nat) (b : Byte) (s t : State), s.ctl.supervisor = true → exec (.w va b) s = .next t →
    ∀ d r, t.reply = some ⟨d, some r⟩ → r.kind ≠ .privilegePage

/-- Step 4: every other write is the physical write at `(frame * PAGE_SIZE + off) mod MEMSIZE`, present or not
(spec/42_translate_write.md R132, R134); under `FRAME_OVERFLOW = fault` an address past the physical space is the
model-only outcome. -/
def Obligations.AllowedWritesReachThePhysicalAddress : Prop :=
  ∀ (va index raw : Nat) (b : Byte) (s : State), Serving s → s.ctl.enabled = true →
    index = (va % s.cfg.memSize) / (s.cfg.memSize / s.cfg.nEntries) % s.cfg.nEntries →
    (s.pt.get index).getLsbD 14 = true → (s.ctl.supervisor = true ∨ (s.pt.get index).getLsbD 13 = true) →
    raw = ((s.pt.get index).toNat % 2 ^ s.cfg.frameBits) * (s.cfg.memSize / s.cfg.nEntries) +
      (va % s.cfg.memSize) % (s.cfg.memSize / s.cfg.nEntries) →
    (raw < s.cfg.memSize ∨ s.cfg.frameOverflow = .wrap →
      exec (.w va b) s = .next (countAccess ((memWrite (raw % s.cfg.memSize) b s).answer none none))) ∧
    (s.cfg.memSize ≤ raw → s.cfg.frameOverflow = .fault →
      exec (.w va b) s = .next (countAccess
        ((s.emit (.abort ⟨.frameOutOfRange, va % s.cfg.memSize, ⟨false, false⟩, index⟩)).answer none
          (some ⟨.frameOutOfRange, va % s.cfg.memSize, ⟨false, false⟩, index⟩))))

/-- The permission table holds of every plain read and every write, under the default `FRAME_OVERFLOW = wrap`
(spec/30_encoding.md R67). -/
def Obligations.PermissionBitsDecideReadsAndWritesAsTabled : Prop :=
  ∀ (va : Nat) (b : Byte) (s : State) (e : Pte), Serving s → s.ctl.enabled = true → s.cfg.frameOverflow = .wrap →
    e = s.pt.get (pageIndex s.cfg (va % s.cfg.memSize)) →
    (∃ t ρ, exec (.r va) s = .next t ∧ t.reply = some ρ ∧ ρ.fault.map FaultRecord.kind =
      (permissionTable (e.getLsbD 15) (e.getLsbD 14) (e.getLsbD 13) s.ctl.supervisor).1) ∧
    ∃ t ρ, exec (.w va b) s = .next t ∧ t.reply = some ρ ∧ ρ.fault.map FaultRecord.kind =
      (permissionTable (e.getLsbD 15) (e.getLsbD 14) (e.getLsbD 13) s.ctl.supervisor).2

/-! ### Operand forms -/

/-- The reference geometry's decomposition: the index is bits 23 to 14 and the offset bits 13 to 0
(spec/30_encoding.md R62). -/
def Obligations.AddressesSplitIntoIndexAndOffset : Prop :=
  ∀ (c : Config) (va : Nat), c.memBits = 24 → c.indexBits = 10 → va < 2 ^ 24 →
    pageIndex c va = ((BitVec.ofNat 24 va).extractLsb' 14 10).toNat ∧
    pageOffset c va = ((BitVec.ofNat 24 va).extractLsb' 0 14).toNat ∧
    va = pageIndex c va * 0x4000 + pageOffset c va

/-- The example entries of spec/30_encoding.md R65. -/
def Obligations.ExampleEntriesReadAsTabled : Prop :=
  ∀ e ∈ ([(0xE000, true, true, true, 0), (0xA000, true, false, true, 0), (0xC003, true, true, false, 3),
      (0x8003, true, false, false, 3), (0x0000, false, false, false, 0), (0x4005, false, true, false, 5),
      (0xE3FF, true, true, true, 1023), (0xE400, true, true, true, 1024), (0xF800, true, true, true, 0)] :
      List (Pte × Bool × Bool × Bool × Nat)),
    (ptePresent e.1, pteWritable e.1, pteUser e.1, pteFrame Config.refconf e.1) = e.2 ∧
      physicalAddress Config.refconf e.1 0 = e.2.2.2.2 % 1024 * 0x4000

/-! ### The dispatcher -/

/-- The physical address map of the paged profile: each device at its own address, the table window byte by byte, the
ROM window, and RAM everywhere else (spec/20_memory.md R45). -/
def Obligations.PhysicalAddressMapOfThePagedProfile : Prop :=
  ∀ c : Config, configValid c = true → c.profile = .paged →
    busTarget c c.consoleOut = .consoleOut ∧ busTarget c c.consoleStatus = .consoleStatus ∧
    busTarget c c.consoleIn = .consoleIn ∧ busTarget c c.trace = .trace ∧
    busTarget c c.ctlEnabled = .control .enabled ∧ busTarget c c.ctlSupervisor = .control .supervisor ∧
    busTarget c c.ctlShadow = .control .shadow ∧ busTarget c c.ctlRtiToUser = .control .rtiToUser ∧
    (∀ i, i < c.nEntries → busTarget c (c.ptBase + 2 * i) = .table i false ∧
      busTarget c (c.ptBase + 2 * i + 1) = .table i true) ∧
    (∀ k, k < 4096 → busTarget c (c.romBase + k) = .rom) ∧
    ∀ pa, (∀ x ∈ statedRanges c, pa < x.1 ∨ x.1 + x.2 ≤ pa) → busTarget c pa = .ram

/-- Console output: a write emits the whole byte; a read returns 0x00 with no side effect (spec/43_dispatcher.md
R142). -/
def Obligations.ConsoleOutputEmitsTheByte : Prop :=
  ∀ (va : Nat) (v : Byte) (s : State), Serving s → s.cfg.profile = .paged →
    (writePlace va s = some s.cfg.consoleOut →
      exec (.w va v) s = .next (countAccess
        ({ s with env := { s.env with events := s.env.events ++ [Event.output v] } }.answer none none))) ∧
    (readPlace flagsR va s = some s.cfg.consoleOut →
      exec (.r va) s = .next (countAccess (s.answer (some 0x00) none)))

/-- Console status: 0x01 if and only if input is pending, and the read consumes nothing (spec/43_dispatcher.md R143). -/
def Obligations.ConsoleStatusTellsWhetherInputIsPending : Prop :=
  ∀ (va : Nat) (s : State), Serving s → s.cfg.profile = .paged → readPlace flagsR va s = some s.cfg.consoleStatus →
    exec (.r va) s = .next (countAccess (s.answer (some (if s.env.input = [] then 0x00 else 0x01)) none))

/-- Console input: the head of the pending input, removed; 0x00 and no change if there is none
(spec/43_dispatcher.md R144). -/
def Obligations.ConsoleInputTakesTheNextByte : Prop :=
  ∀ (va : Nat) (s : State), Serving s → s.cfg.profile = .paged → readPlace flagsR va s = some s.cfg.consoleIn →
    (s.env.input = [] → exec (.r va) s = .next (countAccess (s.answer (some 0x00) none))) ∧
    ∀ b rest, s.env.input = b :: rest →
      exec (.r va) s =
        .next (countAccess ({ s with env := { s.env with input := rest } }.answer (some b) none))

/-- Writes to console status and console input have no effect and raise no fault (spec/43_dispatcher.md R145). -/
def Obligations.WritesToReadOnlyConsoleAddressesDoNothing : Prop :=
  ∀ (va : Nat) (v : Byte) (s : State), Serving s → s.cfg.profile = .paged →
    (writePlace va s = some s.cfg.consoleStatus ∨ writePlace va s = some s.cfg.consoleIn) →
    exec (.w va v) s = .next (countAccess (s.answer none none))

/-- The trace toggle: a write emits the whole byte; a read returns a free byte, whatever it is, and uses up one draw and
nothing else (spec/43_dispatcher.md R146, R147; the free value's form is the model's, log entry 5). -/
def Obligations.TraceWritesAreForwardedAndTraceReadsAreFree : Prop :=
  ∀ (va : Nat) (v : Byte) (s : State), Serving s → s.cfg.profile = .paged →
    (writePlace va s = some s.cfg.trace →
      exec (.w va v) s = .next (countAccess
        ({ s with env := { s.env with events := s.env.events ++ [Event.trace v] } }.answer none none))) ∧
    (readPlace flagsR va s = some s.cfg.trace →
      exec (.r va) s = .next (countAccess
        ({ s with draws := s.draws + 1 }.answer (some (Config.freeByte s.draws)) none)))

/-- Control-register reads return the boolean as 0x01 or 0x00, with no side effect (spec/43_dispatcher.md R148); a
translated read of the mode sees it after steps 1 and 5 (derived there from spec/41_translate_read.md R102, R107,
R109). A fetch is let through by step 8 where neither value is
forbidden. -/
def Obligations.ControlRegisterReadsReturnTheBoolean : Prop :=
  ∀ (fl : AccessFlags) (va : Nat) (s : State) (r : CtlReg), Serving s → s.cfg.profile = .paged →
    readPlace fl va s = some (ctlAddress s.cfg r) →
    (fl.vpa = true → (0x00 : Byte) ∉ s.cfg.privOpcodes ∧ (0x01 : Byte) ∉ s.cfg.privOpcodes) →
    ∃ mode, mode = (if s.ctl.enabled then modeAtCheck fl va s else s.ctl.supervisor) ∧
      exec (readInstr fl va) s = .next (countAccess ((s.setMode mode).answer
        (some (if ctlGet r { s.ctl with supervisor := mode } then 0x01 else 0x00)) none))

/-- The page-table window: byte `PT_BASE + 2i` is bits 7 to 0 of entry `i` and the next byte bits 15 to 8; a write
replaces its byte, keeps the other, checks nothing and touches no memory (spec/43_dispatcher.md R150). -/
def Obligations.TableWindowReadsAndWritesTheEntrysBytes : Prop :=
  ∀ (va i : Nat) (v : Byte) (s : State), Serving s → s.cfg.profile = .paged → i < s.cfg.nEntries →
    (writePlace va s = some (s.cfg.ptBase + 2 * i) →
      exec (.w va v) s = .next (countAccess
        ({ s with pt := s.pt.set i ((s.pt.get i).extractLsb' 8 8 ++ v) }.answer none none))) ∧
    (writePlace va s = some (s.cfg.ptBase + 2 * i + 1) →
      exec (.w va v) s = .next (countAccess
        ({ s with pt := s.pt.set i (v ++ (s.pt.get i).extractLsb' 0 8) }.answer none none))) ∧
    (readPlace flagsR va s = some (s.cfg.ptBase + 2 * i) →
      exec (.r va) s = .next (countAccess (s.answer (some ((s.pt.get i).extractLsb' 0 8)) none))) ∧
    (readPlace flagsR va s = some (s.cfg.ptBase + 2 * i + 1) →
      exec (.r va) s = .next (countAccess (s.answer (some ((s.pt.get i).extractLsb' 8 8)) none)))

/-- Writing an entry through the window, low byte then high byte, and reading both bytes back reproduces the entry, and
no other entry changes (spec/43_dispatcher.md R150; the expansions of spec/30_encoding.md R78). The watchdog is not
reached meanwhile. -/
def Obligations.WrittenEntriesReadBackExactly : Prop :=
  ∀ (s : State) (i : Nat) (e : Pte), Inv s → Serving s → s.cfg.profile = .paged → s.ctl.enabled = false →
    i < s.cfg.nEntries → s.cfg.ptBase + 2 * i + 1 < s.cfg.memSize → s.env.accesses + 4 < s.cfg.watchdogLimit →
    ∃ t u x y lo hi, runInstrs (wpte s.cfg i e) s = .next t ∧ t.pt.get i = e ∧
      (∀ j, j ≠ i → t.pt.get j = s.pt.get j) ∧ t.mem = s.mem ∧
      rpte s.cfg i = [x, y] ∧ exec x t = .next u ∧ u.reply = some ⟨some lo, none⟩ ∧
      ∃ u', exec y u = .next u' ∧ u'.reply = some ⟨some hi, none⟩ ∧ hi ++ lo = e ∧ u'.pt = t.pt

/-- The ROM window: a read returns the stored byte; a write has no effect and raises no fault; no instruction changes a
byte of it (spec/43_dispatcher.md R151). -/
def Obligations.RomReadsTheStoredByteAndIgnoresWrites : Prop :=
  ∀ (va k : Nat) (v : Byte) (s : State), Serving s → s.cfg.profile = .paged → k < 4096 →
    (writePlace va s = some (s.cfg.romBase + k) →
      exec (.w va v) s = .next (countAccess (s.answer none none))) ∧
    (readPlace flagsR va s = some (s.cfg.romBase + k) →
      exec (.r va) s = .next (countAccess (s.answer (some (s.mem.read (s.cfg.romBase + k))) none))) ∧
    (Inv s → ∀ i t, exec i s = .next t → t.mem.read (s.cfg.romBase + k) = s.mem.read (s.cfg.romBase + k))

/-- RAM: a write stores its byte, and a later read that reaches the same physical address returns it, plain read or
fetch alike; a read that reaches another returns what that held (spec/43_dispatcher.md R152, spec/20_memory.md R48,
R51). The watchdog is not reached meanwhile. -/
def Obligations.RamReadsReturnTheLatestWrite : Prop :=
  ∀ (s : State) (va va' pa pa' : Nat) (b : Byte), Inv s → Serving s → s.env.accesses + 2 < s.cfg.watchdogLimit →
    writePlace va s = some pa → busTarget s.cfg pa = .ram →
    ∃ t, exec (.w va b) s = .next t ∧ t.mem.read pa = b ∧ (∀ a, a ≠ pa → t.mem.read a = s.mem.read a) ∧
      (∀ fl, readPlace fl va' t = some pa' → (busTarget s.cfg pa' = .ram ∨ busTarget s.cfg pa' = .rom) →
        ∃ u, exec (readInstr fl va') t = .next u ∧
          ∀ d, u.reply = some ⟨some d, none⟩ → d = if pa' = pa then b else s.mem.read pa')

/-- The unpaged profile's map: three devices, everything else RAM, the paged profile's addresses included
(spec/43_dispatcher.md R160). -/
def Obligations.UnpagedMapHasThreeDevicesAndRam : Prop :=
  ∀ c : Config, configValid c = true → c.profile = .unpaged →
    busTarget c c.uConsoleStatus = .unpagedStatus ∧ busTarget c c.uConsoleOut = .unpagedOut ∧
    busTarget c c.uExit = .unpagedExit ∧
    ∀ pa, pa ≠ c.uConsoleStatus → pa ≠ c.uConsoleOut → pa ≠ c.uExit → busTarget c pa = .ram

/-- The unpaged console: status reads as in R143 and ignores writes (spec/43_dispatcher.md R161); an output write emits
`Output`, and reads of the output and exit addresses are free (R162). -/
def Obligations.UnpagedConsoleStatusAndOutput : Prop :=
  ∀ (va : Nat) (v : Byte) (s : State), Inv s → Serving s → s.cfg.profile = .unpaged →
    (va % s.cfg.memSize = s.cfg.uConsoleStatus →
      exec (.r va) s = .next (countAccess (s.answer (some (if s.env.input = [] then 0x00 else 0x01)) none)) ∧
      exec (.w va v) s = .next (countAccess (s.answer none none))) ∧
    (va % s.cfg.memSize = s.cfg.uConsoleOut →
      exec (.w va v) s = .next (countAccess
        ({ s with env := { s.env with events := s.env.events ++ [Event.output v] } }.answer none none))) ∧
    (va % s.cfg.memSize = s.cfg.uConsoleOut ∨ va % s.cfg.memSize = s.cfg.uExit →
      exec (.r va) s = .next (countAccess
        ({ s with draws := s.draws + 1 }.answer (some (Config.freeByte s.draws)) none)))

/-- The unpaged exit: a write of `v` emits `Exit`, sets the exit status, by default `v` itself, and ends the run: after
it no instruction answers a next state. Under `written` the event and the status are `v` (spec/43_dispatcher.md R162);
under `last_out` the status is the byte last written to the output address (D23), and that the `Exit` event then carries
the status and not `v` is the model's choice (log entry 12). -/
def Obligations.UnpagedExitWritesEndTheRun : Prop :=
  ∀ (va : Nat) (v : Byte) (s : State), Inv s → Serving s → s.cfg.profile = .unpaged →
    va % s.cfg.memSize = s.cfg.uExit →
    ∃ t v', exec (.w va v) s = .next t ∧ t.env.halted = some v' ∧ t.env.events = s.env.events ++ [.exit v'] ∧
      (s.cfg.exitSource = .written → v' = v) ∧
      (∀ b before after, s.cfg.exitSource = .lastOut → s.env.events = before ++ .output b :: after →
        (∀ c, Event.output c ∉ after) → v' = b) ∧
      t.mem = s.mem ∧ ∀ i u, exec i t ≠ .next u

/-- The watchdog: each access counts one, and the access that reaches the limit dumps the diagnostic window and ends the
run (spec/60_exceptions.md R190; that the window is read raw, and that an access that
faults at the limit dumps it too, are the model's choices, log entries 14 and 17). -/
def Obligations.TheWatchdogEndsTheRunAtItsLimit : Prop :=
  ∀ (i : Instr) (s t : State), ((∃ fl va, i = readInstr fl va) ∨ ∃ va b, i = .w va b) → exec i s = .next t →
    t.env.accesses = s.env.accesses + 1 ∧
    (t.env.accesses < s.cfg.watchdogLimit → t.env.dump = none) ∧
    (s.cfg.watchdogLimit ≤ t.env.accesses → t.env.halted = none →
      (∃ l, t.env.dump = some l ∧ l.length = s.cfg.diagLength ∧
        ∀ k, k < s.cfg.diagLength → l[k]? = some (t.mem.read (s.cfg.diagBase + k))) ∧
      ∀ j u, exec j t ≠ .next u)

/-! ### Frames -/

/-- What a read leaves unchanged: memory, the page table, the configuration, the queue, the exit status and the three
control booleans other than the mode; console input loses at most the head, and only where the read reaches console
input; a free byte is drawn only where it reaches an address the spec leaves free; the only event is an `Abort`
(spec/10_state.md R34). -/
def Obligations.ReadsLeaveEverythingElseUnchanged : Prop :=
  ∀ (fl : AccessFlags) (va : Nat) (s t : State), exec (readInstr fl va) s = .next t →
    t.cfg = s.cfg ∧ (∀ a, t.mem.read a = s.mem.read a) ∧ t.mem = s.mem ∧ t.pt = s.pt ∧ t.pending = s.pending ∧
    t.env.halted = s.env.halted ∧ t.ctl.enabled = s.ctl.enabled ∧ t.ctl.shadow = s.ctl.shadow ∧
    t.ctl.rtiToUser = s.ctl.rtiToUser ∧
    (t.env.input = s.env.input ∨ ∃ pa, readPlace fl va s = some pa ∧ busTarget s.cfg pa = .consoleIn ∧
      t.env.input = s.env.input.tail) ∧
    (t.draws = s.draws ∨ ∃ pa, readPlace fl va s = some pa ∧ t.draws = s.draws + 1 ∧
      (busTarget s.cfg pa = .trace ∨ busTarget s.cfg pa = .unpagedOut ∨ busTarget s.cfg pa = .unpagedExit)) ∧
    (t.env.events = s.env.events ∨ ∃ r, t.env.events = s.env.events ++ [.abort r])

/-- What a write leaves unchanged. An event is emitted only where the address is one of the four whose writes emit one, or
the write faults (the `Abort` of spec/60_exceptions.md R171). The stored byte is the one at `writePlace`: every byte of memory elsewhere reads as
before, and so does every byte if that address is not RAM; an entry changes only if the address is in its two bytes of
the window; a control boolean only if the address is its own (spec/10_state.md R34, spec/43_dispatcher.md R141). -/
def Obligations.WritesLeaveEverythingElseUnchanged : Prop :=
  ∀ (va : Nat) (b : Byte) (s t : State), Inv s → exec (.w va b) s = .next t →
    t.cfg = s.cfg ∧ t.pending = s.pending ∧ t.env.input = s.env.input ∧
    (∀ a, (writePlace va s ≠ some a ∨ busTarget s.cfg a ≠ .ram) → t.mem.read a = s.mem.read a) ∧
    (∀ j, (∀ high : Bool, writePlace va s ≠ some (s.cfg.ptBase + 2 * j + high.toNat)) → t.pt.get j = s.pt.get j) ∧
    (∀ r, writePlace va s ≠ some (ctlAddress s.cfg r) → ctlGet r t.ctl = ctlGet r s.ctl) ∧
    (∀ pa, writePlace va s = some pa → busTarget s.cfg pa ≠ .consoleOut → busTarget s.cfg pa ≠ .trace →
      busTarget s.cfg pa ≠ .unpagedOut → busTarget s.cfg pa ≠ .unpagedExit → t.env.events = s.env.events) ∧
    ((∀ pa, writePlace va s = some pa → busTarget s.cfg pa ≠ .unpagedExit) →
      t.env.halted = s.env.halted ∧ t.draws = s.draws)

/-- What a fetched byte leaves unchanged: everything but the mode, the answer and, for a fault, the event list
(spec/41_translate_read.md R110, R111). -/
def Obligations.FetchedBytesLeaveEverythingElseUnchanged : Prop :=
  ∀ (va index : Nat) (vp : Bool) (i : Instr) (s t : State),
    i ∈ [.rtiByte va index vp, .seiByte va index vp, .waiByte va index vp, .stpByte va index vp,
      Instr.xceByte va index vp] → exec i s = .next t →
    ∃ m new, t = { s with
        ctl := { s.ctl with supervisor := m }
        env := { s.env with events := s.env.events ++ new }
        reply := t.reply } ∧
      (new = [] ∨ ∃ r, new = [.abort r]) ∧ (m = s.ctl.supervisor ∨ (i = .rtiByte va index vp ∧ m = false))

/-- A read that faults before its physical read shows nothing of memory or the devices: two states that differ in memory,
pending input or draws answer alike (spec/95_test_vectors.md E2: "never returns device/memory data as if valid"). -/
def Obligations.FaultingReadsShowNoMemoryOrDeviceData : Prop :=
  ∀ (fl : AccessFlags) (va n : Nat) (s t : State) (mem' : Memory) (input' : List Byte), s.ctl.enabled = true →
    readAllowed fl va s = false → exec (readInstr fl va) s = .next t →
    ∃ t', exec (readInstr fl va) { s with mem := mem', draws := n, env := { s.env with input := input' } } = .next t' ∧
      t'.reply = t.reply ∧ t'.ctl = t.ctl ∧ t'.env.events = t.env.events ∧ t'.env.input = input' ∧ t'.draws = n ∧
      t'.mem = mem'

/-- A write to `CTL_ENABLED_ADDR` governs from the next access on (spec/70_reset_and_hazards.md R210). Enabling: the
write is itself untranslated, and every next read and write is translated, at the state with `enabled` set; so a next
read whose entry is not present faults. Disabling: the write must itself pass translation (`writePlace`), and every next
read and write is identity-mapped, at the state with `enabled` clear. The watchdog is not reached meanwhile. -/
def Obligations.EnablingGovernsFromTheNextAccess : Prop :=
  ∀ (s : State) (va va' : Nat) (b b' : Byte) (fl : AccessFlags), Serving s → s.cfg.profile = .paged →
    s.env.accesses + 2 < s.cfg.watchdogLimit →
    (s.ctl.enabled = false → va % s.cfg.memSize = s.cfg.ctlEnabled → b.getLsbD 0 = true →
      ∃ t, exec (.w va b) s = .next t ∧
        t = countAccess ({ s with ctl := { s.ctl with enabled := true } }.answer none none) ∧
        exec (readInstr fl va') t = .next (countAccess (translateRead (va' % s.cfg.memSize) fl t)) ∧
        exec (.w va' b') t = .next (countAccess (translateWrite (va' % s.cfg.memSize) b' t)) ∧
        ((s.pt.get (usedIndex fl va' s)).getLsbD 15 = false → ∃ u, exec (readInstr fl va') t = .next u ∧
          u.reply = some ⟨some 0x00, some ⟨.pageNotPresent, va' % s.cfg.memSize, fl, usedIndex fl va' s⟩⟩)) ∧
    (s.ctl.enabled = true → writePlace va s = some s.cfg.ctlEnabled → b.getLsbD 0 = false →
      ∃ t, exec (.w va b) s = .next t ∧
        t = countAccess ({ s with ctl := { s.ctl with enabled := false } }.answer none none) ∧
        exec (readInstr fl va') t = .next (countAccess ((memRead (va' % s.cfg.memSize) t).2.answer
          (some (memRead (va' % s.cfg.memSize) t).1) none)) ∧
        exec (.w va' b') t = .next (countAccess ((memWrite (va' % s.cfg.memSize) b' t).answer none none)))
end

