-- ==== Sys2Proof/Laws/Operands.lean ====
section
/-! SUPPORT. Bounds of the operand forms, and what a page-table entry's two bytes say of it. -/

namespace Sys2Proof.Machine

theorem memSize_pos (c : Config) : 0 < c.memSize := Nat.two_pow_pos _

theorem nEntries_pos (c : Config) : 0 < c.nEntries := Nat.two_pow_pos _

/-- The frame as a number (spec/30_encoding.md R61). -/
theorem pteFrame_eq (c : Config) (e : Pte) : pteFrame c e = e.toNat % 2 ^ c.frameBits := by
  simp [pteFrame, BitVec.extractLsb'_toNat]

theorem pteFrame_lt (c : Config) (e : Pte) : pteFrame c e < 2 ^ c.frameBits := BitVec.isLt _

/-- `PAGE_SIZE` has `OFFSET_BITS` bits (spec/00_scope.md R7). -/
theorem pageSize_eq_pow {c : Config} (h : c.indexBits ≤ c.memBits) : pageSize c = 2 ^ c.offsetBits :=
  Nat.pow_div h (by decide)

theorem pageIndex_lt (c : Config) (va : Nat) : pageIndex c va < c.nEntries := Nat.mod_lt _ (nEntries_pos c)

theorem shadowTarget_lt (c : Config) : shadowTarget c < c.nEntries := Nat.sub_lt (nEntries_pos c) Nat.one_pos

theorem physicalAddress_lt (c : Config) (e : Pte) (off : Nat) : physicalAddress c e off < c.memSize :=
  Nat.mod_lt _ (memSize_pos c)

theorem reduceAddress_lt (c : Config) (va : Nat) : reduceAddress c va < c.memSize := Nat.mod_lt _ (memSize_pos c)

/-- The façade's reduction is idempotent (spec/40_bus_facade.md R90). -/
@[simp] theorem reduceAddress_reduceAddress (c : Config) (va : Nat) :
    reduceAddress c (reduceAddress c va) = reduceAddress c va := Nat.mod_mod _ _

theorem getLsbD_pteOfBytes (hi lo : Byte) (i : Nat) :
    (pteOfBytes hi lo).getLsbD i = if i < 8 then lo.getLsbD i else hi.getLsbD (i - 8) :=
  (BitVec.getLsbD_append (x := hi) (y := lo)).trans (by split <;> simp_all)

@[simp] theorem pteLow_pteOfBytes (hi lo : Byte) : pteLow (pteOfBytes hi lo) = lo := by
  apply BitVec.eq_of_getLsbD_eq
  intro i hi'
  rw [pteLow, BitVec.getLsbD_extractLsb', getLsbD_pteOfBytes, if_pos (by omega)]
  simp [hi']

@[simp] theorem pteHigh_pteOfBytes (hi lo : Byte) : pteHigh (pteOfBytes hi lo) = hi := by
  apply BitVec.eq_of_getLsbD_eq
  intro i hi'
  rw [pteHigh, BitVec.getLsbD_extractLsb', getLsbD_pteOfBytes, if_neg (by omega), Nat.add_sub_cancel_left]
  simp [hi']

@[simp] theorem pteOfBytes_high_low (e : Pte) : pteOfBytes (pteHigh e) (pteLow e) = e := by
  apply BitVec.eq_of_getLsbD_eq
  intro i hi'
  rw [getLsbD_pteOfBytes, pteHigh, pteLow, BitVec.getLsbD_extractLsb', BitVec.getLsbD_extractLsb']
  split
  · next h => simp [h]
  · next h => simp [show i - 8 < 8 by omega, show 8 + (i - 8) = i by omega]

/-- Replacing one byte of an entry keeps the other (spec/43_dispatcher.md R150). -/
theorem pteHalf_pteSetHalf (h h' : Bool) (e : Pte) (b : Byte) :
    pteHalf h' (pteSetHalf h e b) = if h' = h then b else pteHalf h' e := by
  cases h <;> cases h' <;> simp [pteHalf, pteSetHalf]

theorem of_ite_ne {α : Type} {p : Prop} [Decidable p] {a b x : α} (h : (if p then a else b) = x) (ha : a ≠ x) :
    ¬p ∧ b = x := by
  by_cases hp : p
  · rw [if_pos hp] at h
    exact absurd h ha
  · rw [if_neg hp] at h
    exact ⟨hp, h⟩

/-- What a table address of the paged decode is (spec/30_encoding.md R66). -/
theorem pagedTarget_table {c : Config} {pa i : Nat} {high : Bool} (h : pagedTarget c pa = .table i high) :
    c.ptBase ≤ pa ∧ pa < c.ptBase + tableSize c ∧ i = (pa - c.ptBase) / 2 := by
  unfold pagedTarget at h
  iterate 9 replace h := (of_ite_ne h nofun).2
  by_cases hw : c.ptBase ≤ pa ∧ pa < c.ptBase + tableSize c
  · rw [if_pos hw, Target.table.injEq] at h
    exact ⟨hw.1, hw.2, h.1.symm⟩
  · rw [if_neg hw] at h
    exact absurd (of_ite_ne h nofun).2 nofun

theorem unpagedTarget_cases (c : Config) (pa : Nat) :
    unpagedTarget c pa = .unpagedStatus ∨ unpagedTarget c pa = .unpagedOut ∨ unpagedTarget c pa = .unpagedExit ∨
      unpagedTarget c pa = .ram := by
  unfold unpagedTarget
  repeat' split
  all_goals simp

/-- A table address decodes to an entry inside the table. -/
theorem busTarget_table_lt {c : Config} {pa i : Nat} {high : Bool} (h : busTarget c pa = .table i high) :
    i < c.nEntries := by
  cases hp : c.profile with
  | paged =>
    rw [busTarget, hp] at h
    have := pagedTarget_table h
    unfold tableSize at this
    omega
  | unpaged =>
    rw [busTarget, hp] at h
    obtain h' | h' | h' | h' := unpagedTarget_cases c pa <;> rw [h'] at h <;> cases h

/-- A control register is decoded at its own address only. -/
theorem busTarget_control {c : Config} {pa : Nat} {r : CtlReg} (h : busTarget c pa = .control r) :
    pa = ctlAddress c r := by
  cases hp : c.profile with
  | paged =>
    rw [busTarget, hp] at h
    simp only [pagedTarget] at h
    iterate 5 replace h := (of_ite_ne h nofun).2
    by_cases h1 : pa = c.ctlEnabled
    · rw [if_pos h1] at h
      cases h
      exact h1
    rw [if_neg h1] at h
    by_cases h2 : pa = c.ctlSupervisor
    · rw [if_pos h2] at h
      cases h
      exact h2
    rw [if_neg h2] at h
    by_cases h3 : pa = c.ctlShadow
    · rw [if_pos h3] at h
      cases h
      exact h3
    rw [if_neg h3] at h
    by_cases h4 : pa = c.ctlRtiToUser
    · rw [if_pos h4] at h
      cases h
      exact h4
    rw [if_neg h4] at h
    exact absurd (of_ite_ne (of_ite_ne h nofun).2 nofun).2 nofun
  | unpaged =>
    rw [busTarget, hp] at h
    obtain h' | h' | h' | h' := unpagedTarget_cases c pa <;> rw [h'] at h <;> cases h

/-- Control registers exist in the paged profile only (spec/43_dispatcher.md R160). -/
theorem busTarget_control_paged {c : Config} {pa : Nat} {r : CtlReg} (h : busTarget c pa = .control r) :
    c.profile = .paged := by
  cases hp : c.profile with
  | paged => rfl
  | unpaged =>
    rw [busTarget, hp] at h
    obtain h' | h' | h' | h' := unpagedTarget_cases c pa <;> rw [h'] at h <;> cases h

end Sys2Proof.Machine
end

