-- ==== Sys2Proof/Laws/State.lean ====
section
/-! SUPPORT. One lemma per field per update of the state, so that no proof unfolds a record update. -/

namespace Sys2Proof.Machine

variable (s : State)

@[simp] theorem State.setMem_cfg (pa : Nat) (b : Byte) : (s.setMem pa b).cfg = s.cfg := rfl
@[simp] theorem State.setMem_mem (pa : Nat) (b : Byte) : (s.setMem pa b).mem = s.mem.write pa b := rfl
@[simp] theorem State.setMem_pt (pa : Nat) (b : Byte) : (s.setMem pa b).pt = s.pt := rfl
@[simp] theorem State.setMem_ctl (pa : Nat) (b : Byte) : (s.setMem pa b).ctl = s.ctl := rfl
@[simp] theorem State.setMem_pending (pa : Nat) (b : Byte) : (s.setMem pa b).pending = s.pending := rfl
@[simp] theorem State.setMem_reply (pa : Nat) (b : Byte) : (s.setMem pa b).reply = s.reply := rfl
@[simp] theorem State.setMem_draws (pa : Nat) (b : Byte) : (s.setMem pa b).draws = s.draws := rfl
@[simp] theorem State.setMem_input (pa : Nat) (b : Byte) : (s.setMem pa b).env.input = s.env.input := rfl
@[simp] theorem State.setMem_events (pa : Nat) (b : Byte) : (s.setMem pa b).env.events = s.env.events := rfl
@[simp] theorem State.setMem_halted (pa : Nat) (b : Byte) : (s.setMem pa b).env.halted = s.env.halted := rfl
@[simp] theorem State.setMem_accesses (pa : Nat) (b : Byte) : (s.setMem pa b).env.accesses = s.env.accesses := rfl
@[simp] theorem State.setMem_dump (pa : Nat) (b : Byte) : (s.setMem pa b).env.dump = s.env.dump := rfl

@[simp] theorem State.setPte_cfg (i : Nat) (e : Pte) : (s.setPte i e).cfg = s.cfg := rfl
@[simp] theorem State.setPte_mem (i : Nat) (e : Pte) : (s.setPte i e).mem = s.mem := rfl
@[simp] theorem State.setPte_pt (i : Nat) (e : Pte) : (s.setPte i e).pt = s.pt.set i e := rfl
@[simp] theorem State.setPte_ctl (i : Nat) (e : Pte) : (s.setPte i e).ctl = s.ctl := rfl
@[simp] theorem State.setPte_pending (i : Nat) (e : Pte) : (s.setPte i e).pending = s.pending := rfl
@[simp] theorem State.setPte_reply (i : Nat) (e : Pte) : (s.setPte i e).reply = s.reply := rfl
@[simp] theorem State.setPte_draws (i : Nat) (e : Pte) : (s.setPte i e).draws = s.draws := rfl
@[simp] theorem State.setPte_input (i : Nat) (e : Pte) : (s.setPte i e).env.input = s.env.input := rfl
@[simp] theorem State.setPte_events (i : Nat) (e : Pte) : (s.setPte i e).env.events = s.env.events := rfl
@[simp] theorem State.setPte_halted (i : Nat) (e : Pte) : (s.setPte i e).env.halted = s.env.halted := rfl
@[simp] theorem State.setPte_accesses (i : Nat) (e : Pte) : (s.setPte i e).env.accesses = s.env.accesses := rfl
@[simp] theorem State.setPte_dump (i : Nat) (e : Pte) : (s.setPte i e).env.dump = s.env.dump := rfl

@[simp] theorem State.setCtl_cfg (r : CtlReg) (x : Bool) : (s.setCtl r x).cfg = s.cfg := rfl
@[simp] theorem State.setCtl_mem (r : CtlReg) (x : Bool) : (s.setCtl r x).mem = s.mem := rfl
@[simp] theorem State.setCtl_pt (r : CtlReg) (x : Bool) : (s.setCtl r x).pt = s.pt := rfl
@[simp] theorem State.setCtl_ctl (r : CtlReg) (x : Bool) : (s.setCtl r x).ctl = ctlSet r x s.ctl := rfl
@[simp] theorem State.setCtl_pending (r : CtlReg) (x : Bool) : (s.setCtl r x).pending = s.pending := rfl
@[simp] theorem State.setCtl_reply (r : CtlReg) (x : Bool) : (s.setCtl r x).reply = s.reply := rfl
@[simp] theorem State.setCtl_draws (r : CtlReg) (x : Bool) : (s.setCtl r x).draws = s.draws := rfl
@[simp] theorem State.setCtl_input (r : CtlReg) (x : Bool) : (s.setCtl r x).env.input = s.env.input := rfl
@[simp] theorem State.setCtl_events (r : CtlReg) (x : Bool) : (s.setCtl r x).env.events = s.env.events := rfl
@[simp] theorem State.setCtl_halted (r : CtlReg) (x : Bool) : (s.setCtl r x).env.halted = s.env.halted := rfl
@[simp] theorem State.setCtl_accesses (r : CtlReg) (x : Bool) : (s.setCtl r x).env.accesses = s.env.accesses := rfl
@[simp] theorem State.setCtl_dump (r : CtlReg) (x : Bool) : (s.setCtl r x).env.dump = s.env.dump := rfl

@[simp] theorem State.setMode_cfg (x : Bool) : (s.setMode x).cfg = s.cfg := rfl
@[simp] theorem State.setMode_mem (x : Bool) : (s.setMode x).mem = s.mem := rfl
@[simp] theorem State.setMode_pt (x : Bool) : (s.setMode x).pt = s.pt := rfl
@[simp] theorem State.setMode_ctl (x : Bool) : (s.setMode x).ctl = { s.ctl with supervisor := x } := rfl
@[simp] theorem State.setMode_pending (x : Bool) : (s.setMode x).pending = s.pending := rfl
@[simp] theorem State.setMode_reply (x : Bool) : (s.setMode x).reply = s.reply := rfl
@[simp] theorem State.setMode_draws (x : Bool) : (s.setMode x).draws = s.draws := rfl
@[simp] theorem State.setMode_input (x : Bool) : (s.setMode x).env.input = s.env.input := rfl
@[simp] theorem State.setMode_events (x : Bool) : (s.setMode x).env.events = s.env.events := rfl
@[simp] theorem State.setMode_halted (x : Bool) : (s.setMode x).env.halted = s.env.halted := rfl
@[simp] theorem State.setMode_accesses (x : Bool) : (s.setMode x).env.accesses = s.env.accesses := rfl
@[simp] theorem State.setMode_dump (x : Bool) : (s.setMode x).env.dump = s.env.dump := rfl

@[simp] theorem State.emit_cfg (e : Event) : (s.emit e).cfg = s.cfg := rfl
@[simp] theorem State.emit_mem (e : Event) : (s.emit e).mem = s.mem := rfl
@[simp] theorem State.emit_pt (e : Event) : (s.emit e).pt = s.pt := rfl
@[simp] theorem State.emit_ctl (e : Event) : (s.emit e).ctl = s.ctl := rfl
@[simp] theorem State.emit_pending (e : Event) : (s.emit e).pending = s.pending := rfl
@[simp] theorem State.emit_reply (e : Event) : (s.emit e).reply = s.reply := rfl
@[simp] theorem State.emit_draws (e : Event) : (s.emit e).draws = s.draws := rfl
@[simp] theorem State.emit_input (e : Event) : (s.emit e).env.input = s.env.input := rfl
@[simp] theorem State.emit_events (e : Event) : (s.emit e).env.events = s.env.events ++ [e] := rfl
@[simp] theorem State.emit_halted (e : Event) : (s.emit e).env.halted = s.env.halted := rfl
@[simp] theorem State.emit_accesses (e : Event) : (s.emit e).env.accesses = s.env.accesses := rfl
@[simp] theorem State.emit_dump (e : Event) : (s.emit e).env.dump = s.env.dump := rfl

@[simp] theorem State.setInput_cfg (l : List Byte) : (s.setInput l).cfg = s.cfg := rfl
@[simp] theorem State.setInput_mem (l : List Byte) : (s.setInput l).mem = s.mem := rfl
@[simp] theorem State.setInput_pt (l : List Byte) : (s.setInput l).pt = s.pt := rfl
@[simp] theorem State.setInput_ctl (l : List Byte) : (s.setInput l).ctl = s.ctl := rfl
@[simp] theorem State.setInput_pending (l : List Byte) : (s.setInput l).pending = s.pending := rfl
@[simp] theorem State.setInput_reply (l : List Byte) : (s.setInput l).reply = s.reply := rfl
@[simp] theorem State.setInput_draws (l : List Byte) : (s.setInput l).draws = s.draws := rfl
@[simp] theorem State.setInput_input (l : List Byte) : (s.setInput l).env.input = l := rfl
@[simp] theorem State.setInput_events (l : List Byte) : (s.setInput l).env.events = s.env.events := rfl
@[simp] theorem State.setInput_halted (l : List Byte) : (s.setInput l).env.halted = s.env.halted := rfl
@[simp] theorem State.setInput_accesses (l : List Byte) : (s.setInput l).env.accesses = s.env.accesses := rfl
@[simp] theorem State.setInput_dump (l : List Byte) : (s.setInput l).env.dump = s.env.dump := rfl

@[simp] theorem State.halt_cfg (v : Byte) : (s.halt v).cfg = s.cfg := rfl
@[simp] theorem State.halt_mem (v : Byte) : (s.halt v).mem = s.mem := rfl
@[simp] theorem State.halt_pt (v : Byte) : (s.halt v).pt = s.pt := rfl
@[simp] theorem State.halt_ctl (v : Byte) : (s.halt v).ctl = s.ctl := rfl
@[simp] theorem State.halt_pending (v : Byte) : (s.halt v).pending = s.pending := rfl
@[simp] theorem State.halt_reply (v : Byte) : (s.halt v).reply = s.reply := rfl
@[simp] theorem State.halt_draws (v : Byte) : (s.halt v).draws = s.draws := rfl
@[simp] theorem State.halt_input (v : Byte) : (s.halt v).env.input = s.env.input := rfl
@[simp] theorem State.halt_events (v : Byte) : (s.halt v).env.events = s.env.events := rfl
@[simp] theorem State.halt_halted (v : Byte) : (s.halt v).env.halted = some v := rfl
@[simp] theorem State.halt_accesses (v : Byte) : (s.halt v).env.accesses = s.env.accesses := rfl
@[simp] theorem State.halt_dump (v : Byte) : (s.halt v).env.dump = s.env.dump := rfl

@[simp] theorem State.answer_cfg (d : Option Byte) (f : Option FaultRecord) : (s.answer d f).cfg = s.cfg := rfl
@[simp] theorem State.answer_mem (d : Option Byte) (f : Option FaultRecord) : (s.answer d f).mem = s.mem := rfl
@[simp] theorem State.answer_pt (d : Option Byte) (f : Option FaultRecord) : (s.answer d f).pt = s.pt := rfl
@[simp] theorem State.answer_ctl (d : Option Byte) (f : Option FaultRecord) : (s.answer d f).ctl = s.ctl := rfl
@[simp] theorem State.answer_pending (d : Option Byte) (f : Option FaultRecord) : (s.answer d f).pending = s.pending := rfl
@[simp] theorem State.answer_reply (d : Option Byte) (f : Option FaultRecord) : (s.answer d f).reply = some { data := d, fault := f } := rfl
@[simp] theorem State.answer_draws (d : Option Byte) (f : Option FaultRecord) : (s.answer d f).draws = s.draws := rfl
@[simp] theorem State.answer_input (d : Option Byte) (f : Option FaultRecord) : (s.answer d f).env.input = s.env.input := rfl
@[simp] theorem State.answer_events (d : Option Byte) (f : Option FaultRecord) : (s.answer d f).env.events = s.env.events := rfl
@[simp] theorem State.answer_halted (d : Option Byte) (f : Option FaultRecord) : (s.answer d f).env.halted = s.env.halted := rfl
@[simp] theorem State.answer_accesses (d : Option Byte) (f : Option FaultRecord) : (s.answer d f).env.accesses = s.env.accesses := rfl
@[simp] theorem State.answer_dump (d : Option Byte) (f : Option FaultRecord) : (s.answer d f).env.dump = s.env.dump := rfl

@[simp] theorem State.draw_cfg : s.draw.2.cfg = s.cfg := rfl
@[simp] theorem State.draw_mem : s.draw.2.mem = s.mem := rfl
@[simp] theorem State.draw_pt : s.draw.2.pt = s.pt := rfl
@[simp] theorem State.draw_ctl : s.draw.2.ctl = s.ctl := rfl
@[simp] theorem State.draw_pending : s.draw.2.pending = s.pending := rfl
@[simp] theorem State.draw_reply : s.draw.2.reply = s.reply := rfl
@[simp] theorem State.draw_draws : s.draw.2.draws = s.draws + 1 := rfl
@[simp] theorem State.draw_env : s.draw.2.env = s.env := rfl
@[simp] theorem State.draw_byte : s.draw.1 = Config.freeByte s.draws := rfl

@[simp] theorem countAccess_cfg : (countAccess s).cfg = s.cfg := rfl
@[simp] theorem countAccess_mem : (countAccess s).mem = s.mem := rfl
@[simp] theorem countAccess_pt : (countAccess s).pt = s.pt := rfl
@[simp] theorem countAccess_ctl : (countAccess s).ctl = s.ctl := rfl
@[simp] theorem countAccess_pending : (countAccess s).pending = s.pending := rfl
@[simp] theorem countAccess_reply : (countAccess s).reply = s.reply := rfl
@[simp] theorem countAccess_draws : (countAccess s).draws = s.draws := rfl
@[simp] theorem countAccess_input : (countAccess s).env.input = s.env.input := rfl
@[simp] theorem countAccess_events : (countAccess s).env.events = s.env.events := rfl
@[simp] theorem countAccess_halted : (countAccess s).env.halted = s.env.halted := rfl
@[simp] theorem countAccess_accesses : (countAccess s).env.accesses = s.env.accesses + 1 := rfl

@[simp] theorem ctlGet_ctlSet_same (r : CtlReg) (x : Bool) (c : Ctl) : ctlGet r (ctlSet r x c) = x := by cases r <;> rfl

theorem ctlGet_ctlSet_other (r q : CtlReg) (x : Bool) (c : Ctl) (h : q ≠ r) : ctlGet q (ctlSet r x c) = ctlGet q c := by
  cases r <;> cases q <;> first | rfl | exact absurd rfl h

@[simp] theorem byteBool_boolByte (x : Bool) : byteBool (boolByte x) = x := by cases x <;> rfl

end Sys2Proof.Machine
end

