-- ==== Sys2Proof/Laws/Store.lean ====
section
/-! SUPPORT. What the canonical arrays of Machine/Store.lean satisfy: read after write, the canonical form is kept,
and equal contents are equal data. -/

namespace Sys2Proof.Machine

variable {n : Nat}

theorem sparseWfFrom_cons (low limit a : Nat) (x : BitVec n) (l : List (Nat × BitVec n)) :
    sparseWfFrom low limit ((a, x) :: l) = true ↔
      low ≤ a ∧ a < limit ∧ x ≠ unlisted n ∧ sparseWfFrom (a + 1) limit l = true := by
  simp [sparseWfFrom, and_assoc]

theorem sparseWfFrom_mono {low low' limit : Nat} {l : List (Nat × BitVec n)} (h : low' ≤ low)
    (w : sparseWfFrom low limit l = true) : sparseWfFrom low' limit l = true := by
  cases l with
  | nil => rfl
  | cons p rest =>
    obtain ⟨a, x⟩ := p
    rw [sparseWfFrom_cons] at w ⊢
    exact ⟨h.trans w.1, w.2⟩

/-- Below the lowest index an array lists, it reads as unlisted. -/
theorem sparseRead_below {low limit : Nat} {l : List (Nat × BitVec n)} (w : sparseWfFrom low limit l = true) {k : Nat}
    (h : k < low) : sparseRead l k = unlisted n := by
  induction l generalizing low with
  | nil => rfl
  | cons p rest ih =>
    obtain ⟨a, x⟩ := p
    rw [sparseWfFrom_cons] at w
    rw [sparseRead, if_neg (by omega)]
    exact ih w.2.2.2 (by omega)

theorem sparseRead_sparseCons {low limit : Nat} {l : List (Nat × BitVec n)} (w : sparseWfFrom low limit l = true) {k : Nat}
    (h : k < low) (x : BitVec n) (j : Nat) :
    sparseRead (sparseCons k x l) j = if k = j then x else sparseRead l j := by
  unfold sparseCons
  split
  · next hx =>
    split
    · next hk => rw [← hk, sparseRead_below w h, hx]
    · rfl
  · rfl

/-- Read after write, at the same place and at every other. -/
theorem sparseRead_sparseWrite {low limit : Nat} {l : List (Nat × BitVec n)} (w : sparseWfFrom low limit l = true)
    (k : Nat) (x : BitVec n) (j : Nat) :
    sparseRead (sparseWrite l k x) j = if k = j then x else sparseRead l j := by
  induction l generalizing low with
  | nil => exact sparseRead_sparseCons (low := k + 1) (limit := limit) rfl (by omega) x j
  | cons p rest ih =>
    obtain ⟨a, y⟩ := p
    have w' := (sparseWfFrom_cons low limit a y rest).1 w
    rw [sparseWrite]
    split
    · next hka =>
      exact sparseRead_sparseCons (sparseWfFrom_cons a limit a y rest |>.2 ⟨le_refl a, w'.2⟩) hka x j
    · split
      · next hka =>
        rw [sparseRead_sparseCons (low := k + 1) (by rw [hka]; exact w'.2.2.2) (by omega) x j, sparseRead, ← hka]
        split <;> rfl
      · next hka =>
        rw [sparseRead, sparseRead, ih w'.2.2.2]
        split
        · next haj => rw [if_neg (by omega)]
        · rfl

theorem sparseWfFrom_sparseCons {low limit k : Nat} {x : BitVec n} {l : List (Nat × BitVec n)} (h : low ≤ k)
    (hk : k < limit) (w : sparseWfFrom (k + 1) limit l = true) : sparseWfFrom low limit (sparseCons k x l) = true := by
  unfold sparseCons
  split
  · exact sparseWfFrom_mono (by omega) w
  · next hx => exact (sparseWfFrom_cons low limit k x l).2 ⟨h, hk, hx, w⟩

theorem sparseWfFrom_sparseWrite {low limit k : Nat} (x : BitVec n) {l : List (Nat × BitVec n)} (h : low ≤ k)
    (hk : k < limit) (w : sparseWfFrom low limit l = true) : sparseWfFrom low limit (sparseWrite l k x) = true := by
  induction l generalizing low with
  | nil => exact sparseWfFrom_sparseCons h hk rfl
  | cons p rest ih =>
    obtain ⟨a, y⟩ := p
    have w' := (sparseWfFrom_cons low limit a y rest).1 w
    rw [sparseWrite]
    split
    · next hka =>
      exact sparseWfFrom_sparseCons h hk ((sparseWfFrom_cons (k + 1) limit a y rest).2 ⟨by omega, w'.2⟩)
    · split
      · next hka => exact sparseWfFrom_sparseCons h hk (by rw [hka]; exact w'.2.2.2)
      · next hka =>
        exact (sparseWfFrom_cons low limit a y _).2 ⟨w'.1, w'.2.1, w'.2.2.1, ih (by omega) w'.2.2.2⟩

/-- Every write keeps the canonical form. -/
theorem sparseWf_sparseWrite {limit k : Nat} (x : BitVec n) {l : List (Nat × BitVec n)} (hk : k < limit)
    (w : sparseWf limit l = true) : sparseWf limit (sparseWrite l k x) = true :=
  sparseWfFrom_sparseWrite x (Nat.zero_le k) hk w

theorem sparse_ext_from {low limit limit' : Nat} {l m : List (Nat × BitVec n)} (hl : sparseWfFrom low limit l = true)
    (hm : sparseWfFrom low limit' m = true) (h : ∀ k, sparseRead l k = sparseRead m k) : l = m := by
  induction l generalizing low m with
  | nil =>
    cases m with
    | nil => rfl
    | cons q _ =>
      obtain ⟨a, x⟩ := q
      have := h a
      rw [sparseRead, sparseRead, if_pos rfl] at this
      exact absurd this.symm ((sparseWfFrom_cons _ _ _ _ _).1 hm).2.2.1
  | cons p rest ih =>
    obtain ⟨a, x⟩ := p
    have hl' := (sparseWfFrom_cons _ _ _ _ _).1 hl
    have ha := h a
    rw [sparseRead, if_pos rfl] at ha
    cases m with
    | nil => exact absurd ha hl'.2.2.1
    | cons q rest' =>
      obtain ⟨b, y⟩ := q
      have hm' := (sparseWfFrom_cons _ _ _ _ _).1 hm
      have hb := h b
      rw [sparseRead, sparseRead, if_pos rfl] at hb
      obtain hab | hab | hab := lt_trichotomy a b
      · rw [sparseRead, if_neg (by omega), sparseRead_below hm'.2.2.2 (by omega)] at ha
        exact absurd ha hl'.2.2.1
      · subst hab
        rw [if_pos rfl] at hb
        subst hb
        congr 1
        refine ih hl'.2.2.2 hm'.2.2.2 fun k => ?_
        by_cases hk : a = k
        · subst hk
          rw [sparseRead_below hl'.2.2.2 (by omega), sparseRead_below hm'.2.2.2 (by omega)]
        · have := h k
          rwa [sparseRead, sparseRead, if_neg hk, if_neg hk] at this
      · rw [if_neg (by omega), sparseRead_below hl'.2.2.2 (by omega)] at hb
        exact absurd hb.symm hm'.2.2.1

/-- Equal contents are equal data. -/
theorem sparse_ext {limit limit' : Nat} {l m : List (Nat × BitVec n)} (hl : sparseWf limit l = true)
    (hm : sparseWf limit' m = true) (h : ∀ k, sparseRead l k = sparseRead m k) : l = m :=
  sparse_ext_from hl hm h

theorem Memory.read_write {size : Nat} {m : Memory} (w : m.wf size = true) (pa : Nat) (b : Byte) (a : Nat) :
    (m.write pa b).read a = if pa = a then b else m.read a := sparseRead_sparseWrite w pa b a

theorem Memory.wf_write {size pa : Nat} {m : Memory} (b : Byte) (h : pa < size) (w : m.wf size = true) :
    (m.write pa b).wf size = true := sparseWf_sparseWrite b h w

theorem PageTable.get_set {entries : Nat} {t : PageTable} (w : t.wf entries = true) (i : Nat) (e : Pte) (j : Nat) :
    (t.set i e).get j = if i = j then e else t.get j := sparseRead_sparseWrite w i e j

theorem PageTable.wf_set {entries i : Nat} {t : PageTable} (e : Pte) (h : i < entries) (w : t.wf entries = true) :
    (t.set i e).wf entries = true := sparseWf_sparseWrite e h w

end Sys2Proof.Machine
end

