-- ==== Sys2Proof/Laws/Bus.lean ====
section
/-! SUPPORT. All that a physical read and a physical write can do to the state. -/

namespace Sys2Proof.Machine

/-- All that a physical read can do: nothing, remove one byte of console input, or draw a free byte. -/
theorem memRead_cases (pa : Nat) (s : State) :
    (memRead pa s).2 = s ∨
      (∃ b rest, busTarget s.cfg pa = .consoleIn ∧ s.env.input = b :: rest ∧ memRead pa s = (b, s.setInput rest)) ∨
      memRead pa s = s.draw := by
  unfold memRead
  split
  case h_3 h =>
    unfold consoleInRead
    split
    · exact .inl rfl
    · next b rest hi => exact .inr (.inl ⟨b, rest, h, hi, rfl⟩)
  all_goals first | exact .inl rfl | exact .inr (.inr rfl)

section Frame
variable (pa : Nat) (s : State)

@[simp] theorem memRead_cfg : (memRead pa s).2.cfg = s.cfg := by
  obtain h | ⟨_, _, _, _, h⟩ | h := memRead_cases pa s <;> simp [h]

@[simp] theorem memRead_mem : (memRead pa s).2.mem = s.mem := by
  obtain h | ⟨_, _, _, _, h⟩ | h := memRead_cases pa s <;> simp [h]

@[simp] theorem memRead_pt : (memRead pa s).2.pt = s.pt := by
  obtain h | ⟨_, _, _, _, h⟩ | h := memRead_cases pa s <;> simp [h]

@[simp] theorem memRead_ctl : (memRead pa s).2.ctl = s.ctl := by
  obtain h | ⟨_, _, _, _, h⟩ | h := memRead_cases pa s <;> simp [h]

@[simp] theorem memRead_pending : (memRead pa s).2.pending = s.pending := by
  obtain h | ⟨_, _, _, _, h⟩ | h := memRead_cases pa s <;> simp [h]

@[simp] theorem memRead_events : (memRead pa s).2.env.events = s.env.events := by
  obtain h | ⟨_, _, _, _, h⟩ | h := memRead_cases pa s <;> simp [h]

@[simp] theorem memRead_halted : (memRead pa s).2.env.halted = s.env.halted := by
  obtain h | ⟨_, _, _, _, h⟩ | h := memRead_cases pa s <;> simp [h]

@[simp] theorem memRead_accesses : (memRead pa s).2.env.accesses = s.env.accesses := by
  obtain h | ⟨_, _, _, _, h⟩ | h := memRead_cases pa s <;> simp [h]

@[simp] theorem memRead_dump : (memRead pa s).2.env.dump = s.env.dump := by
  obtain h | ⟨_, _, _, _, h⟩ | h := memRead_cases pa s <;> simp [h]

end Frame

/-- All that a physical write can do, by what its address leads to. -/
theorem memWrite_cases (pa : Nat) (v : Byte) (s : State) :
    memWrite pa v s = s ∨
      (busTarget s.cfg pa = .ram ∧ memWrite pa v s = s.setMem pa v) ∨
      (∃ r, busTarget s.cfg pa = .control r ∧ memWrite pa v s = s.setCtl r (byteBool v)) ∨
      (∃ i high, busTarget s.cfg pa = .table i high ∧
        memWrite pa v s = s.setPte i (pteSetHalf high (s.pt.get i) v)) ∨
      (∃ e, (e = .output v ∨ e = .trace v) ∧ memWrite pa v s = s.emit e) ∨
      (busTarget s.cfg pa = .unpagedExit ∧ memWrite pa v s = exitWrite v s) := by
  unfold memWrite
  split
  all_goals first | exact .inl rfl | skip
  · exact .inr (.inr (.inr (.inr (.inl ⟨_, .inl rfl, rfl⟩))))
  · exact .inr (.inr (.inr (.inr (.inl ⟨_, .inr rfl, rfl⟩))))
  · next r h => exact .inr (.inr (.inl ⟨r, h, rfl⟩))
  · next i high h => exact .inr (.inr (.inr (.inl ⟨i, high, h, rfl⟩)))
  · next h => exact .inr (.inl ⟨h, rfl⟩)
  · exact .inr (.inr (.inr (.inr (.inl ⟨_, .inl rfl, rfl⟩))))
  · next h => exact .inr (.inr (.inr (.inr (.inr ⟨h, rfl⟩))))

/-- A physical write is silent but at the four addresses whose writes emit an event (spec/10_state.md R34). -/
theorem memWrite_events {pa : Nat} (v : Byte) {s : State} (h1 : busTarget s.cfg pa ≠ .consoleOut)
    (h2 : busTarget s.cfg pa ≠ .trace) (h3 : busTarget s.cfg pa ≠ .unpagedOut)
    (h4 : busTarget s.cfg pa ≠ .unpagedExit) : (memWrite pa v s).env.events = s.env.events := by
  unfold memWrite
  split
  all_goals first | rfl | contradiction

/-- All that an exit write can do: a free byte drawn or not, the event, and the end of the run. -/
theorem exitWrite_cases (v : Byte) (s : State) :
    ∃ b s', (s' = s ∨ s' = s.draw.2) ∧ exitWrite v s = (s'.emit (.exit b)).halt b := by
  refine ⟨(exitStatus v s).1, (exitStatus v s).2, ?_, rfl⟩
  unfold exitStatus
  split
  · exact .inl rfl
  · split
    · exact .inl rfl
    · exact .inr rfl

section WriteFrame
variable (pa : Nat) (v : Byte) (s : State)

@[simp] theorem exitWrite_cfg : (exitWrite v s).cfg = s.cfg := by
  obtain ⟨b, s', h | h, e⟩ := exitWrite_cases v s <;> simp [e, h]

@[simp] theorem exitWrite_mem : (exitWrite v s).mem = s.mem := by
  obtain ⟨b, s', h | h, e⟩ := exitWrite_cases v s <;> simp [e, h]

@[simp] theorem exitWrite_pt : (exitWrite v s).pt = s.pt := by
  obtain ⟨b, s', h | h, e⟩ := exitWrite_cases v s <;> simp [e, h]

@[simp] theorem exitWrite_ctl : (exitWrite v s).ctl = s.ctl := by
  obtain ⟨b, s', h | h, e⟩ := exitWrite_cases v s <;> simp [e, h]

@[simp] theorem exitWrite_pending : (exitWrite v s).pending = s.pending := by
  obtain ⟨b, s', h | h, e⟩ := exitWrite_cases v s <;> simp [e, h]

@[simp] theorem exitWrite_input : (exitWrite v s).env.input = s.env.input := by
  obtain ⟨b, s', h | h, e⟩ := exitWrite_cases v s <;> simp [e, h]

@[simp] theorem exitWrite_accesses : (exitWrite v s).env.accesses = s.env.accesses := by
  obtain ⟨b, s', h | h, e⟩ := exitWrite_cases v s <;> simp [e, h]

@[simp] theorem exitWrite_dump : (exitWrite v s).env.dump = s.env.dump := by
  obtain ⟨b, s', h | h, e⟩ := exitWrite_cases v s <;> simp [e, h]

@[simp] theorem memWrite_cfg : (memWrite pa v s).cfg = s.cfg := by
  obtain h | ⟨_, h⟩ | ⟨_, _, h⟩ | ⟨_, _, _, h⟩ | ⟨_, _, h⟩ | ⟨_, h⟩ := memWrite_cases pa v s <;> simp [h]

@[simp] theorem memWrite_pending : (memWrite pa v s).pending = s.pending := by
  obtain h | ⟨_, h⟩ | ⟨_, _, h⟩ | ⟨_, _, _, h⟩ | ⟨_, _, h⟩ | ⟨_, h⟩ := memWrite_cases pa v s <;> simp [h]

@[simp] theorem memWrite_input : (memWrite pa v s).env.input = s.env.input := by
  obtain h | ⟨_, h⟩ | ⟨_, _, h⟩ | ⟨_, _, _, h⟩ | ⟨_, _, h⟩ | ⟨_, h⟩ := memWrite_cases pa v s <;> simp [h]

@[simp] theorem memWrite_accesses : (memWrite pa v s).env.accesses = s.env.accesses := by
  obtain h | ⟨_, h⟩ | ⟨_, _, h⟩ | ⟨_, _, _, h⟩ | ⟨_, _, h⟩ | ⟨_, h⟩ := memWrite_cases pa v s <;> simp [h]

@[simp] theorem memWrite_dump : (memWrite pa v s).env.dump = s.env.dump := by
  obtain h | ⟨_, h⟩ | ⟨_, _, h⟩ | ⟨_, _, _, h⟩ | ⟨_, _, h⟩ | ⟨_, h⟩ := memWrite_cases pa v s <;> simp [h]

end WriteFrame

end Sys2Proof.Machine
end

