-- ==== Sys2Proof/Laws/Decode.lean ====
section
/-! SUPPORT. The fields of an encoded word: what the decoder's field reads give of what the encoder puts together. -/

namespace Sys2Proof

theorem requestWord_toNat (k : BitVec 3) {va : Nat} (h : va < 2 ^ 24) (b : Byte) :
    (0#5 ++ k ++ BitVec.ofNat 24 va ++ b : BitVec 40).toNat = (k.toNat * 2 ^ 24 + va) * 2 ^ 8 + b.toNat := by
  simp only [BitVec.toNat_append, BitVec.toNat_ofNat, Nat.mod_eq_of_lt h]
  rw [← Nat.shiftLeft_add_eq_or_of_lt k.isLt, ← Nat.shiftLeft_add_eq_or_of_lt h,
    ← Nat.shiftLeft_add_eq_or_of_lt b.isLt]
  simp [Nat.shiftLeft_eq]

theorem fetchedWord_toNat {va index : Nat} (vp : Bool) (h : va < 2 ^ 24) (hi : index < 2 ^ 10) (b : Byte) :
    (0#5 ++ BitVec.ofNat 10 index ++ BitVec.ofBool vp ++ BitVec.ofNat 24 va ++ b : BitVec 48).toNat =
      ((index * 2 + vp.toNat) * 2 ^ 24 + va) * 2 ^ 8 + b.toNat := by
  simp only [BitVec.toNat_append, BitVec.toNat_ofNat, Nat.mod_eq_of_lt h, Nat.mod_eq_of_lt hi]
  rw [← Nat.shiftLeft_add_eq_or_of_lt hi, ← Nat.shiftLeft_add_eq_or_of_lt (BitVec.ofBool vp).isLt,
    ← Nat.shiftLeft_add_eq_or_of_lt h, ← Nat.shiftLeft_add_eq_or_of_lt b.isLt]
  simp [Nat.shiftLeft_eq]

/-- The fields of a word read as a number. -/
theorem extractLsb'_toNat_div {n : Nat} (w : BitVec n) (lo len : Nat) :
    (w.extractLsb' lo len).toNat = w.toNat / 2 ^ lo % 2 ^ len := by
  rw [BitVec.extractLsb'_toNat, Nat.shiftRight_eq_div_pow]

theorem getLsbD_eq_div {n : Nat} (w : BitVec n) (i : Nat) : w.getLsbD i = decide (w.toNat / 2 ^ i % 2 = 1) := by
  rw [BitVec.getLsbD, Nat.testBit_eq_decide_div_mod_eq]

end Sys2Proof
end

