-- ==== Sys2Proof/Laws/Ops.lean ====
section
/-! SUPPORT. When the block serves, and what its answer says when it does. -/

namespace Sys2Proof.Machine

open Sys2Proof.Safety

theorem serve_next {act : State → State} {s : State} (h : Serving s) : serve act s = .next (act s) := by
  simp [serve, h.1, h.2.1, h.2.2]

theorem access_next {act : State → State} {s : State} (h : Serving s) : access act s = .next (countAccess (act s)) :=
  serve_next h

/-- All that `serve` can answer as a next state. -/
theorem serve_eq_next {act : State → State} {s t : State} (h : serve act s = .next t) : Serving s ∧ t = act s := by
  unfold serve at h
  split at h
  · next hc =>
    split at h
    · cases h
    · next hh =>
      split at h
      · cases h
      · next hd =>
        cases h
        exact ⟨⟨hc, by simpa using hh, by simpa using hd⟩, rfl⟩
  · cases h

theorem access_eq_next {act : State → State} {s t : State} (h : access act s = .next t) :
    Serving s ∧ t = countAccess (act s) := serve_eq_next h

/-- Where `serve` answers no next state, it is one of these three stops. -/
theorem serve_cases (act : State → State) (s : State) :
    (Serving s ∧ serve act s = .next (act s)) ∨
      (configValid s.cfg = false ∧ serve act s = .refused .invalidConfiguration) ∨
      (configValid s.cfg = true ∧ s.env.halted.isSome = true ∧ serve act s = .fault .runHalted) ∨
      (configValid s.cfg = true ∧ s.env.halted = none ∧ s.env.dump.isSome = true ∧
        serve act s = .fault .watchdogExpired) := by
  unfold serve Serving
  cases hc : configValid s.cfg <;> cases hh : s.env.halted <;> cases hd : s.env.dump <;> simp

end Sys2Proof.Machine
end

