-- ==== Sys2Proof/Laws/Translate.lean ====
section
/-! SUPPORT. What the translator and the façade do, each in one equation over the names of Safety.lean. -/

namespace Sys2Proof.Machine

open Sys2Proof.Safety

@[simp] theorem takeFault_eq (d : Option Byte) (k : FaultKind) (va : Nat) (fl : AccessFlags) (i : Nat) (s : State) :
    takeFault d k va fl i s = (s.emit (.abort ⟨k, va, fl, i⟩)).answer d (some ⟨k, va, fl, i⟩) := rfl

theorem setMode_self (s : State) : s.setMode s.ctl.supervisor = s := rfl

theorem setMode_setMode (s : State) (x y : Bool) : (s.setMode x).setMode y = s.setMode y := rfl

theorem forceSupervisor_eq (fl : AccessFlags) (s : State) : forceSupervisor fl s = afterForce fl s := by
  unfold forceSupervisor afterForce
  cases fl.vp
  · rfl
  · rfl

theorem demote_eq (fl : AccessFlags) (e : Pte) (s : State) :
    demote fl e s = s.setMode (s.ctl.supervisor && !(fl.vpa && pteUser e)) := by
  unfold demote
  cases fl.vpa <;> cases pteUser e <;> simp [setMode_self]

/-- The whole read algorithm, in the words of Safety.lean: the four ways it ends (spec/41_translate_read.md R101). -/
theorem translateRead_eq (fl : AccessFlags) (va : Nat) (s : State) :
    translateRead (reduceAddress s.cfg va) fl s =
      if ptePresent (usedEntry fl va s) then
        if !modeAtCheck fl va s && !pteUser (usedEntry fl va s) then
          takeFault (some 0x00) .privilegePage (reduceAddress s.cfg va) fl (usedIndex fl va s)
            (s.setMode (modeAtCheck fl va s))
        else if frameOverflows s.cfg (usedEntry fl va s) (pageOffset s.cfg (reduceAddress s.cfg va)) then
          takeFault (some 0x00) .frameOutOfRange (reduceAddress s.cfg va) fl (usedIndex fl va s)
            (s.setMode (modeAtCheck fl va s))
        else
          finishRead (reduceAddress s.cfg va) fl (usedIndex fl va s) (readAddress fl va s)
            (s.setMode (modeAtCheck fl va s))
      else
        takeFault (some 0x00) .pageNotPresent (reduceAddress s.cfg va) fl (usedIndex fl va s)
          (s.setMode (fl.vp || s.ctl.supervisor)) := by
  simp only [translateRead, readThrough, forceSupervisor_eq, demote_eq]
  rfl

/-- A write either faults, leaving only the record, or is the physical write at `writePlace`. -/
theorem busWrite_eq (va : Nat) (b : Byte) (s : State) :
    (∃ pa, writePlace va s = some pa ∧ busWrite va b s = (memWrite pa b s).answer none none) ∨
      (∃ kind, s.ctl.enabled = true ∧ writePlace va s = none ∧ writeFault (reduceAddress s.cfg va) s = some kind ∧
        busWrite va b s = takeFault none kind (reduceAddress s.cfg va) flagsW
          (pageIndex s.cfg (reduceAddress s.cfg va)) s) := by
  unfold busWrite writePlace translateWrite
  cases he : s.ctl.enabled with
  | false => exact .inl ⟨_, rfl, rfl⟩
  | true =>
    cases hf : writeFault (reduceAddress s.cfg va) s with
    | none => exact .inl ⟨writeAddress (reduceAddress s.cfg va) s, by simp, by simp [hf]⟩
    | some k => exact .inr ⟨k, rfl, by simp, rfl, by simp [hf]⟩

theorem writePlace_lt {va pa : Nat} {s : State} (h : writePlace va s = some pa) : pa < s.cfg.memSize := by
  unfold writePlace at h
  split at h
  · split at h
    · cases h
      exact physicalAddress_lt _ _ _
    · cases h
  · cases h
    exact reduceAddress_lt _ _

/-- Step 8 ends the access in one of two ways: an answer, with the mode kept or dropped, or the fault. -/
theorem postFetch_cases (b : Byte) (va : Nat) (fl : AccessFlags) (i : Nat) (s : State) :
    (∃ m, postFetch b va fl i s = (s.setMode m).answer (some b) none ∧
        (m = s.ctl.supervisor ∨ (m = false ∧ s.ctl.supervisor = true ∧ b = rtiOpcode ∧ s.ctl.rtiToUser = true))) ∨
      (s.ctl.supervisor = false ∧ isPrivOpcode s.cfg b = true ∧
        postFetch b va fl i s = takeFault (some s.cfg.nopSubst) .privilegeOpcode va fl i s) := by
  unfold postFetch
  split
  · next hs =>
    split
    · next hr => exact .inl ⟨false, rfl, .inr ⟨rfl, hs, hr.1, hr.2⟩⟩
    · exact .inl ⟨s.ctl.supervisor, by rw [setMode_self], .inl rfl⟩
  · next hs =>
    split
    · next hp => exact .inr ⟨by simpa using hs, hp, rfl⟩
    · exact .inl ⟨s.ctl.supervisor, by rw [setMode_self], .inl rfl⟩

/-- The shape of every read: the mode is set, at most one physical read happens, the mode may be set again, and the
access ends by an answer or by a fault that names the reduced address and the flags. -/
theorem busRead_shape (fl : AccessFlags) (va : Nat) (s : State) :
    ∃ m d x, (x = s.setMode m ∨ ∃ m' pa, readPlace fl va s = some pa ∧ x = ((memRead pa (s.setMode m')).2).setMode m) ∧
      (busRead fl va s = x.answer (some d) none ∨
        (s.ctl.enabled = true ∧
          ∃ k i, busRead fl va s = takeFault (some d) k (reduceAddress s.cfg va) fl i x)) := by
  unfold busRead
  cases he : s.ctl.enabled with
  | false =>
    refine ⟨s.ctl.supervisor, (memRead (reduceAddress s.cfg va) s).1, (memRead (reduceAddress s.cfg va) s).2,
      .inr ⟨s.ctl.supervisor, reduceAddress s.cfg va, by simp [readPlace, he], ?_⟩, .inl (by simp)⟩
    rw [setMode_self]
    conv => rhs; rw [show s.ctl.supervisor = (memRead (reduceAddress s.cfg va) s).2.ctl.supervisor by simp, setMode_self]
  | true =>
    simp only [if_true]
    rw [translateRead_eq]
    split
    · next hp =>
      split
      · exact ⟨_, _, _, .inl rfl, .inr ⟨trivial, _, _, rfl⟩⟩
      · next hm =>
        split
        · exact ⟨_, _, _, .inl rfl, .inr ⟨trivial, _, _, rfl⟩⟩
        · next ho =>
          have hr : readPlace fl va s = some (readAddress fl va s) := by
            simp only [readPlace, he, if_true]
            rw [if_pos]
            simp only [Bool.not_eq_true, Bool.and_eq_false_iff] at hm ho
            unfold readAllowed
            rw [hp, ho]
            cases h1 : modeAtCheck fl va s <;> cases h2 : pteUser (usedEntry fl va s) <;> simp_all
          unfold finishRead
          split
          · obtain ⟨m, h, -⟩ | ⟨-, -, h⟩ := postFetch_cases
              (memRead (readAddress fl va s) (s.setMode (modeAtCheck fl va s))).1 (reduceAddress s.cfg va) fl
              (usedIndex fl va s) (memRead (readAddress fl va s) (s.setMode (modeAtCheck fl va s))).2
            · exact ⟨m, _, _, .inr ⟨_, _, hr, rfl⟩, .inl h⟩
            · exact ⟨_, _, _, .inr ⟨_, _, hr, (setMode_self _).symm⟩, .inr ⟨trivial, _, _, h⟩⟩
          · exact ⟨_, _, _, .inr ⟨_, _, hr, (setMode_self _).symm⟩, .inl rfl⟩
    · exact ⟨_, _, _, .inl rfl, .inr ⟨trivial, _, _, rfl⟩⟩

section ReadFrame
variable (fl : AccessFlags) (va : Nat) (s : State)

@[simp] theorem busRead_cfg : (busRead fl va s).cfg = s.cfg := by
  obtain ⟨m, d, x, rfl | ⟨m', pa, -, rfl⟩, h | ⟨-, k, i, h⟩⟩ := busRead_shape fl va s <;> simp [h]

@[simp] theorem busRead_mem : (busRead fl va s).mem = s.mem := by
  obtain ⟨m, d, x, rfl | ⟨m', pa, -, rfl⟩, h | ⟨-, k, i, h⟩⟩ := busRead_shape fl va s <;> simp [h]

@[simp] theorem busRead_pt : (busRead fl va s).pt = s.pt := by
  obtain ⟨m, d, x, rfl | ⟨m', pa, -, rfl⟩, h | ⟨-, k, i, h⟩⟩ := busRead_shape fl va s <;> simp [h]

@[simp] theorem busRead_pending : (busRead fl va s).pending = s.pending := by
  obtain ⟨m, d, x, rfl | ⟨m', pa, -, rfl⟩, h | ⟨-, k, i, h⟩⟩ := busRead_shape fl va s <;> simp [h]

@[simp] theorem busRead_halted : (busRead fl va s).env.halted = s.env.halted := by
  obtain ⟨m, d, x, rfl | ⟨m', pa, -, rfl⟩, h | ⟨-, k, i, h⟩⟩ := busRead_shape fl va s <;> simp [h]

/-- No read changes a control boolean other than the mode (spec/43_dispatcher.md R149). -/
theorem busRead_ctlGet (r : CtlReg) (hr : r ≠ .supervisor) : ctlGet r (busRead fl va s).ctl = ctlGet r s.ctl := by
  obtain ⟨m, d, x, rfl | ⟨m', pa, -, rfl⟩, h | ⟨-, k, i, h⟩⟩ := busRead_shape fl va s <;> cases r <;>
    first | exact absurd rfl hr | simp [h, ctlGet]

end ReadFrame

@[simp] theorem busWrite_cfg (va : Nat) (b : Byte) (s : State) : (busWrite va b s).cfg = s.cfg := by
  obtain ⟨pa, -, h⟩ | ⟨k, -, -, -, h⟩ := busWrite_eq va b s <;> simp [h]

@[simp] theorem busWrite_pending (va : Nat) (b : Byte) (s : State) : (busWrite va b s).pending = s.pending := by
  obtain ⟨pa, -, h⟩ | ⟨k, -, -, -, h⟩ := busWrite_eq va b s <;> simp [h]

end Sys2Proof.Machine
end

