-- ==== Sys2Proof/Laws/Exec.lean ====
section
/-! SUPPORT. Each instruction's meaning, where the block serves, in one equation; and the five fetched bytes under one
name. -/

namespace Sys2Proof.Machine

open Sys2Proof.Safety

/-- The four reads are one meaning over their flags. -/
theorem exec_readInstr (fl : AccessFlags) (va : Nat) (s : State) :
    exec (readInstr fl va) s = access (busRead fl va) s := by
  obtain ⟨a, b⟩ := fl
  cases a <;> cases b <;> rfl

theorem exec_readInstr_next (fl : AccessFlags) (va : Nat) {s : State} (h : Serving s) :
    exec (readInstr fl va) s = .next (countAccess (busRead fl va s)) := by
  rw [exec_readInstr, access_next h]

theorem exec_w_next (va : Nat) (b : Byte) {s : State} (h : Serving s) :
    exec (.w va b) s = .next (countAccess (busWrite va b s)) := access_next h

/-- Every instruction is a read, a write, a write with flags, or a fetched byte. -/
theorem instr_cases (i : Instr) :
    (∃ fl va, i = readInstr fl va) ∨ (∃ va b, i = .w va b) ∨ (∀ s, exec i s = .refused .writeWithFlags) ∨
      (∃ b va index vp, (b = rtiOpcode → i = .rtiByte va index vp) ∧ ∀ s, exec i s = fetchedByte b va index vp s) := by
  cases i with
  | r va => exact .inl ⟨flagsR, va, rfl⟩
  | v va => exact .inl ⟨flagsV, va, rfl⟩
  | f va => exact .inl ⟨flagsF, va, rfl⟩
  | fv va => exact .inl ⟨flagsFV, va, rfl⟩
  | w va b => exact .inr (.inl ⟨va, b, rfl⟩)
  | writeVp => exact .inr (.inr (.inl fun _ => rfl))
  | writeVpa => exact .inr (.inr (.inl fun _ => rfl))
  | writeVpaVp => exact .inr (.inr (.inl fun _ => rfl))
  | rtiByte va i vp => exact .inr (.inr (.inr ⟨0x40, va, i, vp, fun _ => rfl, fun _ => rfl⟩))
  | seiByte va i vp => exact .inr (.inr (.inr ⟨0x78, va, i, vp, nofun, fun _ => rfl⟩))
  | waiByte va i vp => exact .inr (.inr (.inr ⟨0xCB, va, i, vp, nofun, fun _ => rfl⟩))
  | stpByte va i vp => exact .inr (.inr (.inr ⟨0xDB, va, i, vp, nofun, fun _ => rfl⟩))
  | xceByte va i vp => exact .inr (.inr (.inr ⟨0xFB, va, i, vp, nofun, fun _ => rfl⟩))

/-- All that a fetched byte can do, where the block serves. -/
theorem fetchedByte_cases (b : Byte) (va index : Nat) (vp : Bool) {s t : State}
    (h : fetchedByte b va index vp s = .next t) :
    Serving s ∧ ((∃ m, t = (s.setMode m).answer (some b) none ∧
        (m = s.ctl.supervisor ∨
          (m = false ∧ s.ctl.enabled = true ∧ s.ctl.supervisor = true ∧ b = rtiOpcode ∧ s.ctl.rtiToUser = true))) ∨
      (s.ctl.enabled = true ∧ s.ctl.supervisor = false ∧ isPrivOpcode s.cfg b = true ∧
        t = takeFault (some s.cfg.nopSubst) .privilegeOpcode (reduceAddress s.cfg va) ⟨true, vp⟩ index s)) := by
  obtain ⟨hs, rfl⟩ := serve_eq_next h
  refine ⟨hs, ?_⟩
  cases he : s.ctl.enabled with
  | false => exact .inl ⟨s.ctl.supervisor, by simp [setMode_self], .inl rfl⟩
  | true =>
    simp only [if_true]
    obtain ⟨m, h, h'⟩ | ⟨h1, h2, h⟩ := postFetch_cases b (reduceAddress s.cfg va) ⟨true, vp⟩ index s
    · exact .inl ⟨m, h, by simpa using h'⟩
    · exact .inr ⟨trivial, h1, h2, h⟩

end Sys2Proof.Machine
end

