-- ==== Sys2Proof/Laws/PerInstr.lean ====
section
/-! SUPPORT. The family `TableMatch`: every well-formed instruction's encoding has the bits its row of
spec/opcode_table.json fixes (its `match` under its `mask`), in the row's own format. -/

namespace Sys2Proof.Laws.TableMatch

/-- A request word whose three kind bits are those of the row (format `REQ35`, mask 0x700000000). -/
def MatchesRequestRow (value : BitVec 40) (word : BusWord) : Prop :=
  ∃ x, word = .request x ∧ x &&& 0x700000000#40 = value ∧ x.extractLsb' 35 5 = 0

/-- A fetched-byte word whose byte is that of the row (format `FETCHED_BYTE8`, mask 0xff). -/
def MatchesFetchedRow (value : BitVec 48) (word : BusWord) : Prop :=
  ∃ x, word = .fetched x ∧ x &&& 0xFF#48 = value ∧ x.extractLsb' 43 5 = 0

/-- The instruction's encoding matches its row of spec/opcode_table.json. -/
def Statement (i : Instr) : Prop :=
  i.wellFormed = true →
    match i with
    | .r _ => MatchesRequestRow 0x0 (encode i)
    | .v _ => MatchesRequestRow 0x100000000 (encode i)
    | .f _ => MatchesRequestRow 0x200000000 (encode i)
    | .fv _ => MatchesRequestRow 0x300000000 (encode i)
    | .w _ _ => MatchesRequestRow 0x400000000 (encode i)
    | .writeVp => MatchesRequestRow 0x500000000 (encode i)
    | .writeVpa => MatchesRequestRow 0x600000000 (encode i)
    | .writeVpaVp => MatchesRequestRow 0x700000000 (encode i)
    | .rtiByte _ _ _ => MatchesFetchedRow 0x40 (encode i)
    | .seiByte _ _ _ => MatchesFetchedRow 0x78 (encode i)
    | .waiByte _ _ _ => MatchesFetchedRow 0xCB (encode i)
    | .stpByte _ _ _ => MatchesFetchedRow 0xDB (encode i)
    | .xceByte _ _ _ => MatchesFetchedRow 0xFB (encode i)

theorem requestWord_matches (kind : BitVec 3) (va : Nat) (b : Byte) :
    MatchesRequestRow (0#5 ++ kind ++ 0#24 ++ 0#8) (requestWord kind va b) := by
  refine ⟨_, rfl, ?_, ?_⟩
  · rw [show (0x700000000#40) = 0#5 ++ 7#3 ++ 0#24 ++ 0#8 by decide, BitVec.and_append, BitVec.and_append,
      BitVec.and_append, show (7#3) = BitVec.allOnes 3 by decide]
    simp only [BitVec.and_zero, BitVec.and_allOnes]
  · exact (BitVec.eq_of_getLsbD_eq fun i hi => by
      simp only [BitVec.getLsbD_extractLsb', BitVec.getLsbD_append]
      rw [if_neg (by omega), if_neg (by omega), if_neg (by omega)]
      simp)

theorem fetchedWord_matches (b : Byte) (va index : Nat) (vp : Bool) :
    MatchesFetchedRow (0#5 ++ 0#10 ++ 0#1 ++ 0#24 ++ b) (fetchedWord b va index vp) := by
  refine ⟨_, rfl, ?_, ?_⟩
  · rw [show (0xFF#48) = 0#5 ++ 0#10 ++ 0#1 ++ 0#24 ++ 0xFF#8 by decide, BitVec.and_append, BitVec.and_append,
      BitVec.and_append, BitVec.and_append, show (0xFF#8) = BitVec.allOnes 8 by decide]
    simp only [BitVec.and_zero, BitVec.and_allOnes]
  · exact (BitVec.eq_of_getLsbD_eq fun i hi => by
      simp only [BitVec.getLsbD_extractLsb', BitVec.getLsbD_append]
      rw [if_neg (by omega), if_neg (by omega), if_neg (by omega), if_neg (by omega)]
      simp)

theorem r (va : Nat) : Statement (.r va) := fun _ => requestWord_matches 0b000 va 0
theorem v (va : Nat) : Statement (.v va) := fun _ => requestWord_matches 0b001 va 0
theorem f (va : Nat) : Statement (.f va) := fun _ => requestWord_matches 0b010 va 0
theorem fv (va : Nat) : Statement (.fv va) := fun _ => requestWord_matches 0b011 va 0
theorem w (va : Nat) (b : Byte) : Statement (.w va b) := fun _ => requestWord_matches 0b100 va b
theorem writeVp : Statement .writeVp := fun _ => requestWord_matches 0b101 0 0
theorem writeVpa : Statement .writeVpa := fun _ => requestWord_matches 0b110 0 0
theorem writeVpaVp : Statement .writeVpaVp := fun _ => requestWord_matches 0b111 0 0
theorem rtiByte (va index : Nat) (vp : Bool) : Statement (.rtiByte va index vp) :=
  fun _ => fetchedWord_matches 0x40 va index vp
theorem seiByte (va index : Nat) (vp : Bool) : Statement (.seiByte va index vp) :=
  fun _ => fetchedWord_matches 0x78 va index vp
theorem waiByte (va index : Nat) (vp : Bool) : Statement (.waiByte va index vp) :=
  fun _ => fetchedWord_matches 0xCB va index vp
theorem stpByte (va index : Nat) (vp : Bool) : Statement (.stpByte va index vp) :=
  fun _ => fetchedWord_matches 0xDB va index vp
theorem xceByte (va index : Nat) (vp : Bool) : Statement (.xceByte va index vp) :=
  fun _ => fetchedWord_matches 0xFB va index vp

end Sys2Proof.Laws.TableMatch
end

