-- ==== Sys2Proof/Tests/Slice0.lean ====
section
/-! SUPPORT. Tests. Expected values come from the spec: its vectors (spec/95_test_vectors.md), its encodings
(spec/30_encoding.md) and its opcode table. The `witness_` theorems show, for each statement with hypotheses, a state and
operands that meet them together. -/

namespace Sys2Proof.Tests

open Sys2Proof.Machine Sys2Proof.Safety

/-! ### Helpers -/

/-- Table `T0` of spec/41_translate_read.md; `pt[4]` is zero and so not listed. -/
def table0 : PageTable := [(0, 0xE000), (1, 0xA001), (2, 0xC002), (3, 0xE005), (1023, 0x8003)]

/-- REFCONF with the control booleans, the memory, the table and the input of a vector. -/
def place (ctl : Ctl) (mem : Memory := []) (pt : PageTable := table0) (input : List Byte := []) : State :=
  { State.reset with mem := mem, pt := pt, ctl := ctl, env := { State.reset.env with input := input } }

/-- Supervisor, MMU on. -/
def sup : Ctl := ⟨true, true, false, false⟩
/-- User, MMU on. -/
def usr : Ctl := ⟨true, false, false, false⟩
/-- Supervisor, MMU off. -/
def off : Ctl := ⟨false, true, false, false⟩

/-- The unpaged profile with REFCONF's numbers. -/
def unpagedState (input : List Byte := []) : State :=
  { State.reset with
    cfg := { Config.refconf with profile := .unpaged }
    env := { State.reset.env with input := input } }

/-- What a test looks at after one instruction: the answer and the control booleans. -/
def seen (o : Host.Outcome State Fault Refusal) : Option (Option Reply × Ctl) :=
  match o with
  | .next t => some (t.reply, t.ctl)
  | .fault _ => none
  | .refused _ => none

/-- A part of the next state. -/
def part {α : Type} (look : State → α) (o : Host.Outcome State Fault Refusal) : Option α :=
  match o with
  | .next t => some (look t)
  | .fault _ => none
  | .refused _ => none

theorem refconf_valid : configValid Config.refconf = true := by decide

theorem place_serving (ctl : Ctl) (mem : Memory) (pt : PageTable) (input : List Byte) :
    Serving (place ctl mem pt input) := ⟨refconf_valid, rfl, rfl⟩

theorem unpaged_serving (input : List Byte) : Serving (unpagedState input) :=
  ⟨(by decide : configValid { Config.refconf with profile := .unpaged } = true), rfl, rfl⟩

/-! ### Well-formedness: one ill-formed term for each check -/

theorem test_wf_r : (Instr.r (2 ^ 24)).wellFormed = false ∧ (Instr.r (2 ^ 24 - 1)).wellFormed = true := by decide
theorem test_wf_v : (Instr.v (2 ^ 24)).wellFormed = false := by decide
theorem test_wf_f : (Instr.f (2 ^ 24)).wellFormed = false := by decide
theorem test_wf_fv : (Instr.fv (2 ^ 24)).wellFormed = false := by decide
theorem test_wf_w : (Instr.w (2 ^ 24) 0).wellFormed = false := by decide
theorem test_wf_fetched_address : (Instr.rtiByte (2 ^ 24) 0 false).wellFormed = false ∧
    (Instr.seiByte (2 ^ 24) 0 false).wellFormed = false ∧ (Instr.waiByte (2 ^ 24) 0 false).wellFormed = false ∧
    (Instr.stpByte (2 ^ 24) 0 false).wellFormed = false ∧ (Instr.xceByte (2 ^ 24) 0 false).wellFormed = false := by
  decide
theorem test_wf_fetched_index : (Instr.rtiByte 0 1024 false).wellFormed = false ∧
    (Instr.seiByte 0 1024 false).wellFormed = false ∧ (Instr.waiByte 0 1024 false).wellFormed = false ∧
    (Instr.stpByte 0 1024 false).wellFormed = false ∧ (Instr.xceByte 0 1024 false).wellFormed = false := by
  decide

/-! ### Decoding: words written out bit by bit from spec/30_encoding.md R75 and spec/opcode_table.json -/

/-- `0:0001FC:--` of program P2. -/
theorem test_decode_r : decode (.request 0b00000_000_000000000000000111111100_00000000) = .ok (.r 0x0001FC) := by rfl
/-- `1:00FFFE:--` of program P3. -/
theorem test_decode_v : decode (.request 0b00000_001_000000001111111111111110_00000000) = .ok (.v 0x00FFFE) := by rfl
/-- `2:00F019:--` of program P1. -/
theorem test_decode_f : decode (.request 0b00000_010_000000001111000000011001_00000000) = .ok (.f 0x00F019) := by rfl
/-- Kind 011 at 0x00FFFC (V41-11). -/
theorem test_decode_fv : decode (.request 0b00000_011_000000001111111111111100_00000000) = .ok (.fv 0x00FFFC) := by
  rfl
/-- `4:00E001:E0` of program P1. -/
theorem test_decode_w :
    decode (.request 0b00000_100_000000001110000000000001_11100000) = .ok (.w 0x00E001 0xE0) := by rfl
/-- Kinds 101, 110 and 111. -/
theorem test_decode_refused :
    decode (.request 0b00000_101_000000000000000000000000_00000000) = .ok .writeVp ∧
    decode (.request 0b00000_110_111111111111111111111111_11111111) = .ok .writeVpa ∧
    decode (.request 0b00000_111_000000000000000000000001_00000001) = .ok .writeVpaVp := ⟨rfl, rfl, rfl⟩
theorem test_decode_rti : decode (.fetched 0b01000000) = .ok (.rtiByte 0 0 false) := by rfl
theorem test_decode_sei : decode (.fetched 0b01111000) = .ok (.seiByte 0 0 false) := by rfl
theorem test_decode_wai : decode (.fetched 0b11001011) = .ok (.waiByte 0 0 false) := by rfl
theorem test_decode_stp : decode (.fetched 0b11011011) = .ok (.stpByte 0 0 false) := by rfl
theorem test_decode_xce : decode (.fetched 0b11111011) = .ok (.xceByte 0 0 false) := by rfl
theorem test_decode_no_row : decodeTableWord 8 0xEA = none := by decide

/-! ### One step of each instruction -/

/-- V41-23: frame 1024 wraps to physical 0x000123. -/
theorem test_r_wraps_the_frame :
    seen (exec (.r 0x018123) (place sup [(0x000123, 0x66)] [(6, 0xE400)])) = some (some ⟨some 0x66, none⟩, sup) := by
  decide
/-- V41-28: a faulting read does not take the pending console byte. -/
theorem test_r_not_present :
    part (fun t => (t.reply, t.env.input)) (exec (.r 0x010000) (place usr [] table0 [0x61])) =
      some (some ⟨some 0x00, some ⟨.pageNotPresent, 0x010000, ⟨false, false⟩, 4⟩⟩, [0x61]) := by decide
/-- V41-9: the vector is shadowed to entry 1023, physical 0x00FFFC. -/
theorem test_v_shadowed :
    seen (exec (.v 0x00FFFC) (place ⟨true, false, true, false⟩ [(0x00FFFC, 0x12), (0x017FFC, 0x99)])) =
      some (some ⟨some 0x12, none⟩, ⟨true, true, true, false⟩) := by decide
/-- V41-10: not shadowed, and `VP` alone does not demote. -/
theorem test_v_forces_supervisor :
    seen (exec (.v 0x00FFFC) (place usr [(0x017FFC, 0x99)])) = some (some ⟨some 0x99, none⟩, sup) := by decide
/-- V41-29: the byte comes from console input, which the physical read has taken; it is forbidden, and the fetch was
demoted first. -/
theorem test_f_forbidden_byte :
    part (fun t => (t.reply, t.ctl, t.env.input)) (exec (.f 0x00D002) (place sup [] [(3, 0xE003)] [0x78])) =
      some (some ⟨some 0xEA, some ⟨.privilegeOpcode, 0x00D002, ⟨true, false⟩, 3⟩⟩, usr, []) := by decide
/-- V41-16: a supervisor RTI fetch drops to user mode. -/
theorem test_f_rti :
    seen (exec (.f 0x008000) (place ⟨true, true, false, true⟩ [(0x008000, 0x40)])) =
      some (some ⟨some 0x40, none⟩, ⟨true, false, false, true⟩) := by decide
/-- V41-11: step 1 set the mode, step 5 cleared it. -/
theorem test_fv_demotes :
    seen (exec (.fv 0x00FFFC) (place usr [(0x017FFC, 0x99)])) = some (some ⟨some 0x99, none⟩, usr) := by decide
/-- V42-7: the writable check comes first. -/
theorem test_w_read_only_first :
    part (fun t => (t.reply, t.mem)) (exec (.w 0x018000 0x01) (place usr [] [(6, 0x8006)])) =
      some (some ⟨none, some ⟨.readOnlyViolation, 0x018000, ⟨false, false⟩, 6⟩⟩, []) := by decide
/-- V43-15: the high byte of an entry, the low one kept. -/
theorem test_w_table_high_byte :
    part (fun t => t.pt) (exec (.w 0x00E001 0xAB) (place off [] [(0, 0x1234)])) = some [(0, 0xAB34)] := by decide
/-- spec/30_encoding.md R76. -/
theorem test_refused_kinds :
    exec .writeVp State.reset = .refused .writeWithFlags ∧ exec .writeVpa State.reset = .refused .writeWithFlags ∧
      exec .writeVpaVp State.reset = .refused .writeWithFlags := ⟨rfl, rfl, rfl⟩
/-- spec/41_translate_read.md R110, with `rti_to_user` set. -/
theorem test_rti_byte :
    seen (exec (.rtiByte 0x008000 2 false) (place ⟨true, true, false, true⟩)) =
      some (some ⟨some 0x40, none⟩, ⟨true, false, false, true⟩) := by decide
/-- E8, at step 8. -/
theorem test_sei_byte :
    seen (exec (.seiByte 0x000300 0 false) (place usr)) =
      some (some ⟨some 0xEA, some ⟨.privilegeOpcode, 0x000300, ⟨true, false⟩, 0⟩⟩, usr) := by decide
/-- WAI in supervisor mode is let through (spec/60_exceptions.md R183). -/
theorem test_wai_byte :
    seen (exec (.waiByte 0x008000 2 false) (place sup)) = some (some ⟨some 0xCB, none⟩, sup) := by decide
/-- V60-4, at step 8. -/
theorem test_stp_byte :
    seen (exec (.stpByte 0x000300 0 false) (place usr)) =
      some (some ⟨some 0xEA, some ⟨.privilegeOpcode, 0x000300, ⟨true, false⟩, 0⟩⟩, usr) := by decide
/-- XCE while the MMU is disabled has no effect (spec/40_bus_facade.md R91). -/
theorem test_xce_byte :
    seen (exec (.xceByte 0x000300 0 false) (place ⟨false, false, false, false⟩)) =
      some (some ⟨some 0xFB, none⟩, ⟨false, false, false, false⟩) := by decide

/-! ### The step, power-on and the load -/

/-- The host's use of `withFetchWord`: `2:00F019:--` as the first instruction after reset. -/
theorem test_step_first_instruction :
    seen (step (State.reset.withFetchWord 40 0x200F01900)) = some (some ⟨some 0x00, none⟩, off) := by decide
/-- The start of E10: image byte 0 is at 0xF000. -/
theorem test_load :
    (State.launch Config.refconf [] [] (some [0x18, 0x19])).map (fun s => (s.mem, s.ctl)) =
      some ([(0xF000, 0x18), (0xF001, 0x19)], off) := by decide
/-- spec/60_exceptions.md R172. -/
theorem test_fault_codes :
    [FaultKind.pageNotPresent, .privilegePage, .privilegeOpcode, .readOnlyViolation, .frameOutOfRange].map faultCode =
      [(1, 0), (2, 0), (2, 1), (3, 0), (0xFF, 0)] := by decide
/-- `WCTL enabled, 0x01` is step 5 of P1; `WPTE 3, 0xC003` is its steps 3 and 4 (spec/30_encoding.md R78). -/
theorem test_pseudo_operations :
    wctl Config.refconf .enabled 0x01 = [.w 0x00D010 0x01] ∧
      wpte Config.refconf 3 0xC003 = [.w 0x00E006 0x03, .w 0x00E007 0xC0] ∧
      rpte Config.refconf 1023 = [.r 0x00E7FE, .r 0x00E7FF] := by decide
/-- The parameter `FRAME_BITS`: with 10 bits the frame of 0xE400 is 0, with the reference's 11 it is 1024; 12 is refused
(log entry 16). -/
theorem test_frame_bits :
    pteFrame Config.refconf 0xE400 = 1024 ∧ pteFrame { Config.refconf with frameBits := 10 } 0xE400 = 0 ∧
      configValid { Config.refconf with frameBits := 10 } = true ∧
      configValid { Config.refconf with frameBits := 12 } = false := by decide
/-- A byte written and its removal by the value an unlisted address reads as keep memory canonical. -/
theorem test_memory_canonical :
    Memory.write (Memory.write [(5, 1)] 3 7) 5 0 = [(3, 7)] ∧ Memory.wf 8 [(3, 7)] = true ∧
      Memory.wf 8 [(3, 0)] = false ∧ Memory.wf 8 [(5, 1), (3, 7)] = false ∧ Memory.wf 8 [(8, 1)] = false := by decide

/-! ### Witnesses: the hypotheses of each statement are met together

Each clause of a statement has its own conjunct; values stand at the boundary of their ranges where they have one. -/

theorem witness_DecodeOfEncode :
    (Instr.w 0xFFFFFF 0xFF).wellFormed = true ∧ (Instr.xceByte 0xFFFFFF 1023 true).wellFormed = true := by decide

theorem witness_DecodedInstructionsEncodeBack :
    decode (.request 0x4FFFFFFFF) = .ok (.w 0xFFFFFF 0xFF) ∧
      decode (.fetched 0x7FFFFFFFF40) = .ok (.rtiByte 0xFFFFFF 1023 true) := ⟨rfl, rfl⟩

theorem witness_WriteKindsWithFlags :
    ∀ x ∈ [(0x500000000 : BitVec 40), 0x6FFFFFFFF, 0x700000001],
      x.extractLsb' 35 5 = 0 ∧ x.getLsbD 34 = true ∧ (x.getLsbD 33 || x.getLsbD 32) = true ∧
        ∃ s : State, s.pending = .engine (.request x) :: [] := by
  intro x hx
  simp only [List.mem_cons, List.not_mem_nil, or_false] at hx
  refine ⟨?_, ?_, ?_, { State.reset with pending := [.engine (.request x)] }, rfl⟩ <;>
    rcases hx with rfl | rfl | rfl <;> decide

theorem witness_WordsWithStrayBits :
    (0x800000000 : BitVec 40).extractLsb' 35 5 ≠ 0 ∧ (0x80000000000 : BitVec 48).extractLsb' 43 5 ≠ 0 ∧
      ({ State.reset with pending := [.engine (.request 0x800000000)] } : State).pending =
        .engine (.request 0x800000000) :: [] := by decide

theorem witness_StepRunsThePresentedInstruction :
    ({ State.reset with pending := [.engine (.fetched 0x78)] } : State).pending = .engine (.fetched 0x78) :: [] ∧
      decode (.fetched 0x78) = .ok (.seiByte 0 0 false) ∧
      decodeTableWord 40 0x4FFFFFFFF = some (.w 0xFFFFFF 0xFF) ∧ decodeTableWord 8 0x78 = some (.seiByte 0 0 false) :=
  ⟨rfl, rfl, by decide, by decide⟩

theorem witness_HostAppends :
    Serving State.reset ∧ State.reset.pending = [] ∧
      Serving { State.reset with pending := [.host 0x61] } := ⟨place_serving off [] [] [], rfl, refconf_valid, rfl, rfl⟩

/-- Both outcomes: a byte the configuration does not forbid, and one it forbids although the table has no row for it. -/
theorem witness_FetchedBytesWithoutARow :
    decode (.fetched 0xEA) = .error (.noRow 0xEA 0 0 false) ∧ decode (.fetched 0x7FFFFFFFF01) =
      .error (.noRow 0x01 0xFFFFFF 1023 true) ∧
    (∃ s : State, Serving s ∧ s.pending = [.engine (.fetched 0xEA)] ∧ s.ctl.enabled = true ∧
      s.ctl.supervisor = false ∧ (0xEA : Byte) ∉ s.cfg.privOpcodes) ∧
    ∃ s : State, Serving s ∧ s.pending = [.engine (.fetched 0x7FFFFFFFF01)] ∧ s.ctl.enabled = true ∧
      s.ctl.supervisor = false ∧ (0x01 : Byte) ∈ s.cfg.privOpcodes :=
  ⟨rfl, rfl,
    ⟨{ place usr with pending := [.engine (.fetched 0xEA)] }, ⟨refconf_valid, rfl, rfl⟩, rfl, rfl, rfl, by decide⟩,
    ⟨{ place usr with
        cfg := { Config.refconf with privOpcodes := [0x78, 0x00, 0x01, 0x40] }
        pending := [.engine (.fetched 0x7FFFFFFFF01)] }, ⟨by decide, rfl, rfl⟩, rfl, rfl, rfl, by decide⟩⟩

theorem witness_AnEndedRun :
    configValid Config.refconf = true ∧ (State.reset.halt 0x00).env.halted.isSome = true ∧
      State.reset.env.halted = none ∧
      ({ State.reset.env with dump := some [] } : Env).dump.isSome = true := by decide

/-- The ROM window begins at the last byte of the table window; and a device limit one byte short of its end. -/
theorem witness_OverlappingConfigurations :
    (let c := { Config.refconf with romBase := 0xE7FF }
     c.profile = .paged ∧ (statedRanges c)[8] = (0xE000, 2048) ∧ (statedRanges c)[9] = (0xE7FF, 4096)) ∧
    (let c := { Config.refconf with deviceLimit := 0xFFFF }
     c.profile = .paged ∧ ∃ x ∈ statedRanges c, c.deviceLimit < x.1 + x.2) :=
  ⟨⟨rfl, by decide, by decide⟩, rfl, (0xF000, 4096), by decide, by decide⟩

/-- A step that writes the last byte of memory, from a state with contents. -/
theorem witness_EveryStepKeepsTheInvariant :
    ∃ s t : State, Inv s ∧ s.mem ≠ [] ∧ step s = .next t ∧ t.mem ≠ s.mem :=
  ⟨{ place off [(0x10, 0x42)] with pending := [.engine (.request 0x4FFFFFF07)] }, _,
    ⟨refconf_valid, by decide, by decide, by decide⟩, by decide, rfl, by decide⟩

theorem witness_Launch :
    configValid Config.refconf = true ∧ configValid { Config.refconf with profile := .unpaged } = true ∧
      Memory.wf Config.refconf.memSize [(0, 7), (0xFFFFFF, 1)] = true ∧
      PageTable.wf Config.refconf.nEntries [(1023, 1)] = true := by decide

/-- Each listed way into supervisor mode and out of it happens. -/
theorem witness_ModeChanges :
    part (fun t => t.ctl.supervisor) (exec (.v 0x8000) (place usr)) = some true ∧
    part (fun t => t.ctl.supervisor) (exec (.w 0x21011 0xFF) (place usr [] [(8, 0xE003)])) = some true ∧
    part (fun t => t.ctl.supervisor) (exec (.f 0x0) (place sup)) = some false ∧
    part (fun t => t.ctl.supervisor) (exec (.f 0x8000) (place ⟨true, true, false, true⟩ [(0x8000, 0x40)])) =
      some false ∧
    part (fun t => t.ctl.supervisor) (exec (.rtiByte 0 0 false) (place ⟨true, true, false, true⟩)) = some false ∧
    part (fun t => t.ctl.supervisor) (exec (.w 0xD011 0xFE) (place off)) = some false ∧
    part (fun t => t.ctl.supervisor) (step ((place sup).withFetchWord 40 0x200000000)) = some false := by decide

theorem witness_OnlyControlWrites :
    Serving (place off) ∧ (place off).cfg.profile = .paged ∧
    (∀ r : CtlReg, writePlace (ctlAddress Config.refconf r) (place off) = some (ctlAddress (place off).cfg r)) ∧
    part (fun t => ctlGet .enabled t.ctl) (exec (.w 0xD010 0xFF) (place off)) = some true :=
  ⟨place_serving _ _ _ _, rfl, by intro r; cases r <;> decide, by decide⟩

theorem witness_OnlyWritesChange :
    part (fun t => decide (t.pt ≠ table0)) (exec (.w 0xE7FF 0x12) (place off)) = some true ∧
      part (fun t => decide (t.mem ≠ [])) (exec (.w 0xFFFFFF 0x07) (place off)) = some true := by decide

theorem witness_EachAccessRaisesAtMostOneFault :
    (part (fun t => t.env.events.length) (exec (readInstr flagsR 0x10000) (place usr)) = some 1 ∧
      part (fun t => t.env.events.length) (exec (readInstr flagsR 0x0) (place usr)) = some 0) ∧
    part (fun t => t.env.events.length) (exec (.w 0x4000 0x99) (place sup)) = some 1 ∧
      part (fun t => t.env.events.length) (exec (.w 0x0 0x99) (place sup)) = some 0 := by decide

theorem witness_DisabledAccesses :
    Serving (place ⟨false, false, true, true⟩) ∧ (place ⟨false, false, true, true⟩).ctl.enabled = false ∧
      (exec (.v 0x00FFFC) (place ⟨false, false, true, true⟩)) ≠ .refused .invalidConfiguration := by
  refine ⟨place_serving _ _ _ _, rfl, ?_⟩
  rw [show exec (.v 0x00FFFC) (place ⟨false, false, true, true⟩) = .next _ from rfl]
  nofun

/-- User page 0 only, at frame 0: neither the control registers nor the window lie in it. -/
theorem user_page_zero {index : Nat} (h : (PageTable.get [(0, 0xE000)] index).getLsbD 13 = true) : index = 0 := by
  cases index with
  | zero => rfl
  | succ n => simp [PageTable.get, sparseRead, unlisted] at h

theorem page_zero_frame (pa : Nat) (h : pa < 0x4000) :
    physicalAddress Config.refconf (PageTable.get [(0, 0xE000)] 0) pa = pa := by
  have : pteFrame Config.refconf (PageTable.get [(0, 0xE000)] 0) = 0 := by decide
  simp only [physicalAddress, rawAddress, this, Nat.zero_mul, Nat.zero_add]
  exact Nat.mod_eq_of_lt (Nat.lt_of_lt_of_le h (by decide))

theorem witness_UserCode :
    ∃ s t : State, Inv s ∧ s.ctl.enabled = true ∧ s.ctl.supervisor = false ∧
      (∀ index off, index < s.cfg.nEntries → off < s.cfg.memSize / s.cfg.nEntries →
        (s.pt.get index).getLsbD 13 = true →
        ∀ r, physicalAddress s.cfg (s.pt.get index) off ≠ ctlAddress s.cfg r ∧
          ¬(s.cfg.ptBase ≤ physicalAddress s.cfg (s.pt.get index) off ∧
            physicalAddress s.cfg (s.pt.get index) off < s.cfg.ptBase + 2 * s.cfg.nEntries)) ∧
      (∀ word, BusItem.engine word ∈ s.pending → ∀ fl va, decode word = .ok (readInstr fl va) → fl.vp = false) ∧
      core.run 1 s = .next t ∧ t.mem ≠ s.mem := by
  refine ⟨{ place usr [] [(0, 0xE000)] with pending := [.engine (.request 0x400001042)] }, _,
    ⟨refconf_valid, by decide, by decide, by decide⟩, rfl, rfl, ?_, ?_, rfl, by decide⟩
  · intro index off _ ho hu r
    have hi : index = 0 := user_page_zero hu
    subst hi
    have ho' : off < 0x4000 := ho
    have hp := page_zero_frame off ho'
    constructor
    · intro h
      have h' : off = ctlAddress Config.refconf r := hp.symm.trans h
      cases r <;> simp only [ctlAddress, Config.refconf] at h' <;> omega
    · rintro ⟨h, -⟩
      have h' : 0xE000 ≤ off := hp ▸ h
      omega
  · intro word hw fl va hd
    simp only [List.mem_singleton, BusItem.engine.injEq] at hw
    subst hw
    rw [show decode (.request 0x400001042) = .ok (.w 0x10 0x42) from rfl] at hd
    obtain ⟨a, b⟩ := fl
    cases a <;> cases b <;> cases hd

/-- A byte of a supervisor page differs, and the count of draws; a fetch of the user page. -/
theorem witness_UserReadsLearn :
    ∃ (s : State) (mem' : Memory) (n : Nat), Serving s ∧ s.ctl.enabled = true ∧ s.ctl.supervisor = false ∧
      flagsF.vp = false ∧ mem' ≠ s.mem ∧ n ≠ s.draws ∧ readPlace flagsF 0x3FFF s = some 0x3FFF ∧
      busTarget s.cfg 0x3FFF = .ram ∧
      (∀ index off, index < s.cfg.nEntries → off < s.cfg.memSize / s.cfg.nEntries →
        (s.pt.get index).getLsbD 15 = true → (s.pt.get index).getLsbD 13 = true →
        mem'.read (physicalAddress s.cfg (s.pt.get index) off) =
          s.mem.read (physicalAddress s.cfg (s.pt.get index) off)) := by
  refine ⟨place usr [] [(0, 0xE000)], [(0x4000, 0x55)], 7, place_serving _ _ _ _, rfl, rfl, rfl, by decide, by decide,
    by decide, by decide, ?_⟩
  intro index off _ ho _ hu
  have hi : index = 0 := user_page_zero hu
  subst hi
  have ho' : off < 0x4000 := ho
  have hp : physicalAddress (place usr [] [(0, 0xE000)]).cfg (PageTable.get (place usr [] [(0, 0xE000)]).pt 0) off =
    off := page_zero_frame off ho'
  rw [hp]
  exact if_neg (by omega)

theorem witness_AWholeSystemRun :
    Safe (place sup) ∧ part (fun t => t.reply) (exec (.w 0x4000 0x99) (place sup)) =
      some (some ⟨none, some ⟨.readOnlyViolation, 0x4000, ⟨false, false⟩, 1⟩⟩) := ⟨rfl, by decide⟩

theorem witness_ReadsThroughNotPresentEntries :
    Serving (place usr) ∧ (place usr).ctl.enabled = true ∧
      ((place usr).pt.get (usedIndex flagsV 0x13FFF (place usr))).getLsbD 15 = false :=
  ⟨place_serving _ _ _ _, by decide⟩

theorem witness_UserReadsOfSupervisorPages :
    (Serving (place usr) ∧ (place usr).ctl.enabled = true ∧ (place usr).ctl.supervisor = false ∧ flagsF.vp = false ∧
      ((place usr).pt.get (usedIndex flagsF 0xBFFF (place usr))).getLsbD 15 = true ∧
      ((place usr).pt.get (usedIndex flagsF 0xBFFF (place usr))).getLsbD 13 = false) ∧
    flagsV.vp = true ∧ part (fun t => (t.reply.bind Reply.fault).map FaultRecord.kind)
      (exec (readInstr flagsV 0x10000) (place usr)) = some (some .pageNotPresent) :=
  ⟨⟨place_serving _ _ _ _, by decide⟩, by decide⟩

/-- The last address of memory, an address past it that wraps, and one past it that is the model-only outcome. -/
theorem witness_PlainReads :
    (let s := place sup [] [(1023, 0x83FF)]
     Serving s ∧ s.ctl.enabled = true ∧ flagsR.vpa = false ∧ (usedEntry flagsR 0xFFFFFF s).getLsbD 15 = true ∧
       (flagsR.vp || s.ctl.supervisor) = true ∧
       ((usedEntry flagsR 0xFFFFFF s).toNat % 2 ^ s.cfg.frameBits) * (s.cfg.memSize / s.cfg.nEntries) +
         (0xFFFFFF % s.cfg.memSize) % (s.cfg.memSize / s.cfg.nEntries) = 0xFFFFFF) ∧
    (let s := place usr [] [(6, 0xE400)]
     (usedEntry flagsR 0x18000 s).getLsbD 13 = true ∧ s.cfg.frameOverflow = .wrap ∧
       ((usedEntry flagsR 0x18000 s).toNat % 2 ^ s.cfg.frameBits) * (s.cfg.memSize / s.cfg.nEntries) = s.cfg.memSize) ∧
    (let s := { place sup [] [(6, 0xE400)] with cfg := { Config.refconf with frameOverflow := .fault } }
     configValid s.cfg = true ∧ (usedEntry flagsV 0x18000 s).getLsbD 15 = true ∧
       s.cfg.memSize ≤ ((usedEntry flagsV 0x18000 s).toNat % 2 ^ s.cfg.frameBits) * (s.cfg.memSize / s.cfg.nEntries)) :=
  ⟨⟨place_serving _ _ _ _, by decide⟩, by decide, by decide⟩

/-- A supervisor fetch of 0x40 with `rti_to_user` clear, one of another byte, and a user fetch. -/
theorem witness_FetchesReturn :
    (let s := place sup [(0x8000, 0x40), (0x8001, 0x78)]
     Serving s ∧ s.ctl.enabled = true ∧ flagsF.vpa = true ∧ readAllowed flagsF 0x8000 s = true ∧
       modeAtCheck flagsF 0x8000 s = true ∧ s.ctl.rtiToUser = false ∧
       (memRead (readAddress flagsF 0x8000 s) (s.setMode true)).1 = 0x40 ∧
       readAllowed flagsF 0x8001 s = true ∧ (memRead (readAddress flagsF 0x8001 s) (s.setMode true)).1 = 0x78) ∧
    (let s := place usr [(0x3FFF, 0x40)]
     readAllowed flagsFV 0x3FFF s = true ∧ modeAtCheck flagsFV 0x3FFF s = false ∧
       (memRead (readAddress flagsFV 0x3FFF s) (s.setMode false)).1 = 0x40 ∧ (0x40 : Byte) ∉ s.cfg.privOpcodes) :=
  ⟨⟨place_serving _ _ _ _, by decide⟩, by decide⟩

theorem witness_VectorPulls :
    flagsFV.vp = true ∧ (place usr).ctl.enabled = true ∧ Serving (place usr) :=
  ⟨rfl, rfl, place_serving _ _ _ _⟩

/-- The first and the last address of page 3 are shadowed; the statement's other cases each hold somewhere. -/
theorem witness_Shadowed :
    (let s := place ⟨true, true, true, false⟩
     let pt' : PageTable := [(1023, 0x8003)]
     Serving s ∧ s.ctl.enabled = true ∧ (flagsF.vp || s.ctl.supervisor) = true ∧ (flagsF.vpa || flagsF.vp) = true ∧
       s.ctl.shadow = true ∧ pageIndex s.cfg (0xC000 % s.cfg.memSize) = s.cfg.shadowPage ∧
       pageIndex s.cfg (0xFFFF % s.cfg.memSize) = s.cfg.shadowPage ∧
       pt'.get (s.cfg.nEntries - 1) = s.pt.get (s.cfg.nEntries - 1) ∧ pt' ≠ s.pt ∧
       busTarget s.cfg (readAddress flagsF 0xFFFF s) = .rom ∧
       busTarget s.cfg (readAddress flagsF 0xE7FF s) = .table 1023 true ∧
       pageIndex s.cfg (0xE7FF % s.cfg.memSize) = s.cfg.shadowPage) ∧
    (flagsR.vpa = false ∧ flagsR.vp = false) ∧ (flagsF.vp = false ∧ (place usr).ctl.supervisor = false) ∧
    (place sup).ctl.shadow = false ∧
    pageIndex Config.refconf (0x10000 % Config.refconf.memSize) ≠ Config.refconf.shadowPage :=
  ⟨⟨place_serving _ _ _ _, by decide⟩, by decide⟩

theorem witness_FetchesFromUserPages :
    Serving (place sup) ∧ (place sup).ctl.enabled = true ∧ (usedEntry flagsF 0x0 (place sup)).getLsbD 15 = true ∧
      (usedEntry flagsF 0x0 (place sup)).getLsbD 13 = true ∧ (usedEntry flagsV 0xFFFF (place sup)).getLsbD 13 = true ∧
      flagsR.vpa = false ∧
      part (fun t => (t.reply.bind Reply.fault).map FaultRecord.kind) (exec (readInstr flagsR 0x18000)
        { place sup [] [(6, 0xE400)] with cfg := { Config.refconf with frameOverflow := .fault } }) =
          some (some .frameOutOfRange) := ⟨place_serving _ _ _ _, by decide⟩

theorem witness_SupervisorRti :
    (let s := place ⟨true, true, false, true⟩ [(0x8000, 0x40)]
     Serving s ∧ s.ctl.enabled = true ∧ flagsF.vpa = true ∧ readAllowed flagsF 0x8000 s = true ∧
       modeAtCheck flagsF 0x8000 s = true ∧ (memRead (readAddress flagsF 0x8000 s) (s.setMode true)).1 = 0x40) :=
  ⟨place_serving _ _ _ _, by decide⟩

theorem witness_TheRtiByte :
    Serving (place sup) ∧ (place sup).ctl.enabled = true ∧ (place sup).ctl.supervisor = true ∧
      Serving (place ⟨true, true, false, true⟩) := ⟨place_serving _ _ _ _, rfl, rfl, place_serving _ _ _ _⟩

theorem witness_UserFetchesOfForbiddenBytes :
    (let s := place sup [(0x0300, 0x78)]
     Serving s ∧ s.ctl.enabled = true ∧ flagsF.vpa = true ∧ readAllowed flagsF 0x0300 s = true ∧
       modeAtCheck flagsF 0x0300 s = false ∧ (memRead (readAddress flagsF 0x0300 s) (s.setMode false)).1 = 0x78 ∧
       (0x78 : Byte) ∈ s.cfg.privOpcodes) ∧
    flagsR.vpa = false ∧ part (fun t => (t.reply.bind Reply.fault).map FaultRecord.kind)
      (exec (readInstr flagsR 0x8000) (place usr)) = some (some .privilegePage) :=
  ⟨⟨place_serving _ _ _ _, by decide⟩, by decide⟩

/-- Each of the five bytes, fetched from a supervisor page and from a user page. -/
theorem witness_AFetchIsItsRead :
    ∀ b ∈ [(0x40 : Byte), 0x78, 0xCB, 0xDB, 0xFB],
      readAllowed flagsF 0x8000 (place sup [(0x8000, b)]) = true ∧
      (memRead (readAddress flagsF 0x8000 (place sup [(0x8000, b)])) ((place sup [(0x8000, b)]).setMode
        (modeAtCheck flagsF 0x8000 (place sup [(0x8000, b)])))).1 = b ∧
      readAllowed flagsF 0x0000 (place usr [(0x0000, b)]) = true ∧
      (memRead (readAddress flagsF 0x0000 (place usr [(0x0000, b)])) ((place usr [(0x0000, b)]).setMode
        (modeAtCheck flagsF 0x0000 (place usr [(0x0000, b)])))).1 = b := by decide

theorem witness_ForbiddenFetchedBytes :
    Serving (place usr) ∧ (place usr).ctl.enabled = true ∧ (place usr).ctl.supervisor = false ∧
      ∀ b ∈ [(0xCB : Byte), 0xDB, 0xFB], b ∈ (place usr).cfg.privOpcodes := ⟨place_serving _ _ _ _, by decide⟩

/-- Disabled; supervisor mode; and user mode with a byte the configuration does not forbid. -/
theorem witness_OtherFetchedBytes :
    (Serving (place off) ∧ (place off).ctl.enabled = false) ∧
    ((place sup).ctl.supervisor = true ∧ (place sup).ctl.rtiToUser = false) ∧
    ((place usr).ctl.supervisor = false ∧ (0x40 : Byte) ∉ (place usr).cfg.privOpcodes) ∧
    (let c := { Config.refconf with privOpcodes := [0x78, 0x00, 0x01, 0x02] }
     configValid c = true ∧ ∀ b ∈ [(0xCB : Byte), 0xDB, 0xFB], b ∉ c.privOpcodes) :=
  ⟨⟨place_serving _ _ _ _, by decide⟩, by decide, by decide, by decide⟩

theorem witness_WritesThroughReadOnlyEntries :
    Serving (place sup) ∧ (place sup).ctl.enabled = true ∧
      1 = (0x7FFF % (place sup).cfg.memSize) / ((place sup).cfg.memSize / (place sup).cfg.nEntries) %
        (place sup).cfg.nEntries ∧ ((place sup).pt.get 1).getLsbD 14 = false := ⟨place_serving _ _ _ _, by decide⟩

theorem witness_UserWritesToSupervisorPages :
    Serving (place usr) ∧ (place usr).ctl.enabled = true ∧ (place usr).ctl.supervisor = false ∧
      2 = (0xBFFF % (place usr).cfg.memSize) / ((place usr).cfg.memSize / (place usr).cfg.nEntries) %
        (place usr).cfg.nEntries ∧ ((place usr).pt.get 2).getLsbD 14 = true ∧
      ((place usr).pt.get 2).getLsbD 13 = false ∧ (place sup).ctl.supervisor = true ∧
      part (fun t => (t.reply.bind Reply.fault).map FaultRecord.kind) (exec (.w 0x4000 0x99) (place sup)) =
        some (some .readOnlyViolation) := ⟨place_serving _ _ _ _, by decide⟩

/-- A supervisor write through a not-present, writable entry; a user write; a frame past memory, in both settings. -/
theorem witness_AllowedWrites :
    (let s := place sup [] [(5, 0x4005)]
     Serving s ∧ s.ctl.enabled = true ∧
       5 = (0x17FFF % s.cfg.memSize) / (s.cfg.memSize / s.cfg.nEntries) % s.cfg.nEntries ∧
       (s.pt.get 5).getLsbD 14 = true ∧ s.ctl.supervisor = true ∧
       ((s.pt.get 5).toNat % 2 ^ s.cfg.frameBits) * (s.cfg.memSize / s.cfg.nEntries) + 0x3FFF < s.cfg.memSize) ∧
    (let s := place usr [] [(0, 0xE400)]
     (s.pt.get 0).getLsbD 14 = true ∧ (s.pt.get 0).getLsbD 13 = true ∧ s.cfg.frameOverflow = .wrap ∧
       ((s.pt.get 0).toNat % 2 ^ s.cfg.frameBits) * (s.cfg.memSize / s.cfg.nEntries) = s.cfg.memSize) ∧
    configValid { Config.refconf with frameOverflow := .fault } = true := ⟨⟨place_serving _ _ _ _, by decide⟩, by decide⟩

/-- Every row of the table is some entry's. -/
theorem witness_PermissionBits :
    Serving (place usr) ∧ (place usr).ctl.enabled = true ∧ (place usr).cfg.frameOverflow = .wrap ∧
      ∀ p w u : Bool, (BitVec.ofBool p ++ BitVec.ofBool w ++ BitVec.ofBool u ++ 0#13 : Pte).getLsbD 15 = p ∧
        (BitVec.ofBool p ++ BitVec.ofBool w ++ BitVec.ofBool u ++ 0#13 : Pte).getLsbD 14 = w ∧
        (BitVec.ofBool p ++ BitVec.ofBool w ++ BitVec.ofBool u ++ 0#13 : Pte).getLsbD 13 = u :=
  ⟨place_serving _ _ _ _, by decide⟩

theorem witness_AddressesSplit :
    Config.refconf.memBits = 24 ∧ Config.refconf.indexBits = 10 ∧ 0xFFFFFF < 2 ^ 24 := by decide

/-- The paged map's hypotheses, with the addresses next to each window. -/
theorem witness_PhysicalAddressMap :
    configValid Config.refconf = true ∧ Config.refconf.profile = .paged ∧
      ∀ pa ∈ [0xD004, 0xDFFF, 0xE800, 0xEFFF, 0x10000, 0xFFFFFF],
        ∀ x ∈ statedRanges Config.refconf, pa < x.1 ∨ x.1 + x.2 ≤ pa := by decide

/-- For the five statements about the console and the trace toggle: the device addresses, reached untranslated and, in
the last clause, through page 3. -/
theorem witness_ConsoleAndTrace :
    Serving (place off [] table0 [0x61]) ∧ (place off).cfg.profile = .paged ∧
    writePlace 0xD000 (place off) = some (place off).cfg.consoleOut ∧
    readPlace flagsR 0xD000 (place off) = some (place off).cfg.consoleOut ∧
    readPlace flagsR 0xD001 (place off) = some (place off).cfg.consoleStatus ∧
    readPlace flagsR 0xD002 (place off [] table0 [0x61]) = some (place off).cfg.consoleIn ∧
    (place off [] table0 [0x61]).env.input = 0x61 :: [] ∧ (place off).env.input = [] ∧
    writePlace 0xD001 (place off) = some (place off).cfg.consoleStatus ∧
    writePlace 0xD002 (place off) = some (place off).cfg.consoleIn ∧
    writePlace 0xD003 (place off) = some (place off).cfg.trace ∧
    readPlace flagsR 0xD003 (place sup [] [(3, 0xC003)]) = some (place off).cfg.trace :=
  ⟨place_serving _ _ _ _, by decide⟩

/-- A plain read of each control register, and a fetch of the mode's through a user page. -/
theorem witness_ControlRegisterReads :
    Serving (place off) ∧ (place off).cfg.profile = .paged ∧
    (∀ r : CtlReg, readPlace flagsR (ctlAddress Config.refconf r) (place off) = some (ctlAddress (place off).cfg r)) ∧
    readPlace flagsF 0xD011 (place sup [] [(3, 0xE003)]) = some (ctlAddress (place off).cfg .supervisor) ∧
    (0x00 : Byte) ∉ (place off).cfg.privOpcodes ∧ (0x01 : Byte) ∉ (place off).cfg.privOpcodes :=
  ⟨place_serving _ _ _ _, rfl, by intro r; cases r <;> decide, by decide⟩

theorem witness_TableWindow :
    Serving (place off) ∧ (place off).cfg.profile = .paged ∧ 1023 < (place off).cfg.nEntries ∧
      writePlace 0xE7FE (place off) = some ((place off).cfg.ptBase + 2 * 1023) ∧
      writePlace 0xE7FF (place off) = some ((place off).cfg.ptBase + 2 * 1023 + 1) ∧
      readPlace flagsR 0xE000 (place off) = some ((place off).cfg.ptBase + 2 * 0) ∧
      readPlace flagsR 0xE001 (place off) = some ((place off).cfg.ptBase + 2 * 0 + 1) :=
  ⟨place_serving _ _ _ _, by decide⟩

theorem witness_WrittenEntries :
    Inv (place off) ∧ Serving (place off) ∧ (place off).cfg.profile = .paged ∧ (place off).ctl.enabled = false ∧
      1023 < (place off).cfg.nEntries ∧ (place off).cfg.ptBase + 2 * 1023 + 1 < (place off).cfg.memSize ∧
      (place off).env.accesses + 4 < (place off).cfg.watchdogLimit :=
  ⟨⟨refconf_valid, by decide, by decide, by decide⟩, place_serving _ _ _ _, by decide⟩

theorem witness_Rom :
    Inv (place off) ∧ (∃ t, exec (.w 0xF000 0x00) (place off) = .next t) ∧ Serving (place off) ∧ (place off).cfg.profile = .paged ∧
      writePlace 0xF000 (place off) = some ((place off).cfg.romBase + 0) ∧
      readPlace flagsR 0xFFFF (place off) = some ((place off).cfg.romBase + 4095) :=
  ⟨⟨refconf_valid, by decide, by decide, by decide⟩, ⟨_, rfl⟩, place_serving _ _ _ _, by decide⟩

theorem witness_RamReads :
    ∃ s t : State, Inv s ∧ Serving s ∧ s.env.accesses + 2 < s.cfg.watchdogLimit ∧
      writePlace 0xFFFFFF s = some 0xFFFFFF ∧ busTarget s.cfg 0xFFFFFF = .ram ∧ exec (.w 0xFFFFFF 0x07) s = .next t ∧
      readPlace flagsF 0xFFFFFF t = some 0xFFFFFF ∧ readPlace flagsR 0xF000 t = some 0xF000 ∧
      busTarget s.cfg 0xF000 = .rom :=
  ⟨place off, _, ⟨refconf_valid, by decide, by decide, by decide⟩, place_serving _ _ _ _, by decide, by decide,
    by decide, rfl, by decide, by decide, by decide⟩

/-- For the map of the unpaged profile, its console, and its exit. -/
theorem witness_Unpaged :
    Inv (unpagedState [0x61]) ∧ Serving (unpagedState [0x61]) ∧ (unpagedState [0x61]).cfg.profile = .unpaged ∧
    0xD001 % (unpagedState [0x61]).cfg.memSize = (unpagedState [0x61]).cfg.uConsoleStatus ∧
    0xD000 % (unpagedState [0x61]).cfg.memSize = (unpagedState [0x61]).cfg.uConsoleOut ∧
    0xD002 % (unpagedState [0x61]).cfg.memSize = (unpagedState [0x61]).cfg.uExit ∧
    configValid { Config.refconf with profile := .unpaged } = true ∧
    0xD003 ≠ Config.refconf.uConsoleStatus ∧ 0xD003 ≠ Config.refconf.uConsoleOut ∧ 0xD003 ≠ Config.refconf.uExit :=
  ⟨⟨by decide, by decide, by decide, by decide⟩, unpaged_serving _, by decide⟩

/-- Both sources of the exit status. -/
theorem witness_UnpagedExit :
    (unpagedState).cfg.exitSource = .written ∧
    (let s : State := { unpagedState with
        cfg := { Config.refconf with profile := .unpaged, exitSource := .lastOut }
        env := { State.reset.env with events := [.output 0x01, .output 0x02, .trace 0x03] } }
     configValid s.cfg = true ∧ s.cfg.exitSource = .lastOut ∧
       s.env.events = [.output 0x01] ++ .output 0x02 :: [.trace 0x03] ∧
       part (fun t => t.env.halted) (exec (.w 0xD002 0x09) s) = some (some 0x02)) := ⟨rfl, by decide⟩

/-- One access below the limit, and one that reaches it. -/
theorem witness_Watchdog :
    part (fun t => (t.env.accesses, t.env.dump)) (exec (.r 0x0) (place off)) = some (1, none) ∧
    part (fun t => (t.env.accesses, t.env.dump, t.env.halted))
      (exec (.w 0x0 0x05) { place off with cfg := { Config.refconf with watchdogLimit := 1, diagLength := 2 } }) =
      some (1, some [0x05, 0x00], none) := by decide

/-- For the three frame statements: a read, a write and each fetched byte answer a next state. -/
theorem witness_Frames :
    (∃ t, exec (readInstr flagsF 0x00D002) (place sup [] [(3, 0xE003)] [0x78]) = .next t) ∧
    (Inv (place usr) ∧ (∃ t, exec (.w 0x0 0x42) (place usr) = .next t) ∧ writePlace 0x0 (place usr) = some 0x0 ∧
      busTarget (place usr).cfg 0x0 = .ram) ∧
    ∀ i ∈ [.rtiByte 0 0 false, .seiByte 0 0 false, .waiByte 0 0 false, .stpByte 0 0 false, Instr.xceByte 0 0 false],
      (part (fun _ => ()) (exec i (place usr))).isSome = true :=
  ⟨⟨_, rfl⟩, ⟨⟨refconf_valid, by decide, by decide, by decide⟩, ⟨_, rfl⟩, by decide⟩, by decide⟩

theorem witness_FaultingReads :
    (place usr).ctl.enabled = true ∧ readAllowed flagsR 0x8000 (place usr) = false ∧
      ∃ t, exec (readInstr flagsR 0x8000) (place usr) = .next t := ⟨rfl, by decide, _, rfl⟩

/-- Enabling; and disabling, by a supervisor write through page 3. -/
theorem witness_Enabling :
    (Serving (place off) ∧ (place off).cfg.profile = .paged ∧ (place off).ctl.enabled = false ∧
      0xD010 % (place off).cfg.memSize = (place off).cfg.ctlEnabled ∧ (0x01 : Byte).getLsbD 0 = true ∧
      (place off).env.accesses + 2 < (place off).cfg.watchdogLimit ∧
      ((place off).pt.get (usedIndex flagsR 0x10000 (place off))).getLsbD 15 = false) ∧
    (let s := place sup [] [(3, 0xC003)]
     Serving s ∧ s.ctl.enabled = true ∧ writePlace 0xD010 s = some s.cfg.ctlEnabled ∧
       (0xFE : Byte).getLsbD 0 = false) := ⟨⟨place_serving _ _ _ _, by decide⟩, place_serving _ _ _ _, by decide⟩

end Sys2Proof.Tests
end

/-! SUPPORT. Proofs about the state (spec/10_state.md): what a step and an instruction can do, the frames of the
physical read and write, the invariant, and the image loader. -/

namespace Sys2Proof.Machine

open Sys2Proof.Safety

/-! ### The step and the instructions, inverted -/

theorem step_nil {s : State} (h : s.pending = []) : step s = serve (fun x => x) s := by
  simp only [step, h]

theorem step_engine {s : State} {word : BusWord} {rest : List BusItem} (h : s.pending = .engine word :: rest) :
    step s = serveWord word { s with pending := rest } := by
  simp only [step, h]

theorem step_host {s : State} {b : Byte} {rest : List BusItem} (h : s.pending = .host b :: rest) :
    step s = hostAppend b { s with pending := rest } := by
  simp only [step, h]

theorem serveWord_ok {word : BusWord} {i : Instr} (h : decode word = .ok i) (s : State) :
    serveWord word s = exec i s := by
  simp only [serveWord, h]

theorem decode_of_decodeTableWord {nbits w : Nat} {i : Instr} (h : decodeTableWord nbits w = some i) :
    decode (tableWord nbits w) = .ok i := by
  unfold decodeTableWord at h
  split at h
  · next j hd => rw [hd, Option.some.inj h]
  · cases h

/-- All that a step can do: nothing, where nothing is presented; serve the word at the head of the queue; or append
to console input (log entry 4). -/
theorem step_cases {s t : State} (h : step s = .next t) :
    (s.pending = [] ∧ t = s) ∨
      (∃ word rest, s.pending = .engine word :: rest ∧ serveWord word { s with pending := rest } = .next t) ∨
      (∃ b rest, s.pending = .host b :: rest ∧
        t = State.setInput { s with pending := rest } (s.env.input ++ [b])) := by
  match hp : s.pending with
  | [] => exact .inl ⟨rfl, (serve_eq_next (step_nil hp ▸ h)).2⟩
  | .engine word :: rest => exact .inr (.inl ⟨word, rest, rfl, step_engine hp ▸ h⟩)
  | .host b :: rest => exact .inr (.inr ⟨b, rest, rfl, (serve_eq_next (step_host hp ▸ h)).2⟩)

/-- A presented word that is served is an instruction, or a fetched byte without a row. -/
theorem serveWord_cases {word : BusWord} {s t : State} (h : serveWord word s = .next t) :
    (∃ i, decode word = .ok i ∧ exec i s = .next t) ∨
      ∃ b va index vp, decode word = .error (.noRow b va index vp) ∧ fetchedByte b va index vp s = .next t := by
  unfold serveWord at h
  split at h
  · next i hd => exact .inl ⟨i, hd, h⟩
  · next b va index vp hd => exact .inr ⟨b, va, index, vp, hd, h⟩
  · cases h

/-- All that an instruction can do where it answers a next state: a counted read, a counted write, or step 8 for a
fetched byte. -/
theorem exec_cases {i : Instr} {s t : State} (h : exec i s = .next t) :
    (∃ fl va, i = readInstr fl va ∧ t = countAccess (busRead fl va s)) ∨
      (∃ va b, i = .w va b ∧ t = countAccess (busWrite va b s)) ∨
      (∃ b va index vp, (b = rtiOpcode → i = .rtiByte va index vp) ∧ fetchedByte b va index vp s = .next t) := by
  obtain ⟨fl, va, rfl⟩ | ⟨va, b, rfl⟩ | hr | ⟨b, va, index, vp, hb, he⟩ := instr_cases i
  · rw [exec_readInstr] at h
    exact .inl ⟨fl, va, rfl, (access_eq_next h).2⟩
  · exact .inr (.inl ⟨va, b, rfl, (access_eq_next h).2⟩)
  · rw [hr] at h
    cases h
  · exact .inr (.inr ⟨b, va, index, vp, hb, he s ▸ h⟩)

/-- A fetched byte touches neither memory, the table and the configuration nor the MMU's switch. -/
theorem fetchedByte_frame {b : Byte} {va index : Nat} {vp : Bool} {s t : State}
    (h : fetchedByte b va index vp s = .next t) :
    t.cfg = s.cfg ∧ t.mem = s.mem ∧ t.pt = s.pt ∧ t.ctl.enabled = s.ctl.enabled := by
  obtain ⟨-, ⟨m, rfl, -⟩ | ⟨-, -, -, rfl⟩⟩ := fetchedByte_cases b va index vp h <;> simp

/-! ### The table window's addresses -/

/-- A table address is that of one of the two bytes of the entry it decodes to (spec/30_encoding.md R66). -/
theorem pagedTarget_table_place {c : Config} {pa i : Nat} {high : Bool} (h : pagedTarget c pa = .table i high) :
    pa = c.ptBase + 2 * i + high.toNat := by
  unfold pagedTarget at h
  iterate 9 replace h := (of_ite_ne h nofun).2
  by_cases hw : c.ptBase ≤ pa ∧ pa < c.ptBase + tableSize c
  · rw [if_pos hw, Target.table.injEq] at h
    obtain ⟨rfl, rfl⟩ := h
    obtain hm | hm := Nat.mod_two_eq_zero_or_one (pa - c.ptBase) <;> simp [hm] <;> omega
  · rw [if_neg hw] at h
    exact absurd (of_ite_ne h nofun).2 nofun

theorem busTarget_of_paged {c : Config} (h : c.profile = .paged) (pa : Nat) : busTarget c pa = pagedTarget c pa := by
  rw [busTarget, h]

/-- The table window exists in the paged profile only (spec/43_dispatcher.md R160). -/
theorem busTarget_table_paged {c : Config} {pa i : Nat} {high : Bool} (h : busTarget c pa = .table i high) :
    c.profile = .paged := by
  cases hp : c.profile with
  | paged => rfl
  | unpaged =>
    rw [busTarget, hp] at h
    obtain h' | h' | h' | h' := unpagedTarget_cases c pa <;> rw [h'] at h <;> cases h

/-- A table address lies in the window, at one of the two bytes of the entry it decodes to. -/
theorem busTarget_table {c : Config} {pa i : Nat} {high : Bool} (h : busTarget c pa = .table i high) :
    c.profile = .paged ∧ c.ptBase ≤ pa ∧ pa < c.ptBase + tableSize c ∧ pa = c.ptBase + 2 * i + high.toNat := by
  have hpaged := busTarget_table_paged h
  rw [busTarget_of_paged hpaged] at h
  obtain ⟨hlow, hhigh, -⟩ := pagedTarget_table h
  exact ⟨hpaged, hlow, hhigh, pagedTarget_table_place h⟩

/-! ### Frame of the physical read -/

/-- A physical read removes at most the head of console input, and only at console input's address. -/
theorem memRead_input (pa : Nat) (s : State) :
    (memRead pa s).2.env.input = s.env.input ∨
      (busTarget s.cfg pa = .consoleIn ∧ (memRead pa s).2.env.input = s.env.input.tail) := by
  obtain h | ⟨b, rest, ht, hi, h⟩ | h := memRead_cases pa s
  · exact .inl (by rw [h])
  · exact .inr ⟨ht, by simp [h, hi]⟩
  · exact .inl (by simp [h])

/-- A physical read draws at most one free byte, and only at the addresses whose reads are free
(spec/43_dispatcher.md R146, R162). -/
theorem memRead_draws (pa : Nat) (s : State) :
    (memRead pa s).2.draws = s.draws ∨
      ((memRead pa s).2.draws = s.draws + 1 ∧ (busTarget s.cfg pa = .trace ∨ busTarget s.cfg pa = .unpagedOut ∨
        busTarget s.cfg pa = .unpagedExit)) := by
  cases ht : busTarget s.cfg pa with
  | trace => exact .inr ⟨by simp [memRead, ht], .inl rfl⟩
  | unpagedOut => exact .inr ⟨by simp [memRead, ht], .inr (.inl rfl)⟩
  | unpagedExit => exact .inr ⟨by simp [memRead, ht], .inr (.inr rfl)⟩
  | consoleIn =>
    simp only [memRead, ht, consoleInRead]
    split <;> exact .inl rfl
  | consoleOut | consoleStatus | control | table | rom | ram | unpagedStatus => exact .inl (by simp [memRead, ht])

/-! ### Frame of the bus read -/

section BusReadFrame
variable (fl : AccessFlags) (va : Nat) (s : State)

/-- Console input and the draws after a read are those before it, or those after one physical read at `readPlace`. -/
theorem busRead_input_draws :
    ((busRead fl va s).env.input = s.env.input ∧ (busRead fl va s).draws = s.draws) ∨
      ∃ m pa, readPlace fl va s = some pa ∧
        (busRead fl va s).env.input = (memRead pa (s.setMode m)).2.env.input ∧
        (busRead fl va s).draws = (memRead pa (s.setMode m)).2.draws := by
  obtain ⟨m, d, x, rfl | ⟨m', pa, hpa, rfl⟩, h | ⟨-, k, i, h⟩⟩ := busRead_shape fl va s <;> rw [h]
  case inl.inl | inl.inr => exact .inl ⟨rfl, rfl⟩
  case inr.inl | inr.inr => exact .inr ⟨m', pa, hpa, rfl, rfl⟩

/-- A read removes at most the head of console input, and only where it reaches console input
(spec/43_dispatcher.md R144). -/
theorem busRead_input :
    (busRead fl va s).env.input = s.env.input ∨ ∃ pa, readPlace fl va s = some pa ∧
      busTarget s.cfg pa = .consoleIn ∧ (busRead fl va s).env.input = s.env.input.tail := by
  obtain ⟨h, -⟩ | ⟨m, pa, hpa, h, -⟩ := busRead_input_draws fl va s
  · exact .inl h
  · rw [h]
    exact (memRead_input pa (s.setMode m)).imp id fun ⟨ht, hi⟩ => ⟨pa, hpa, ht, hi⟩

/-- A read draws at most one free byte, and only where it reaches an address whose reads are free. -/
theorem busRead_draws :
    (busRead fl va s).draws = s.draws ∨ ∃ pa, readPlace fl va s = some pa ∧
      (busRead fl va s).draws = s.draws + 1 ∧ (busTarget s.cfg pa = .trace ∨ busTarget s.cfg pa = .unpagedOut ∨
        busTarget s.cfg pa = .unpagedExit) := by
  obtain ⟨-, h⟩ | ⟨m, pa, hpa, -, h⟩ := busRead_input_draws fl va s
  · exact .inl h
  · rw [h]
    exact (memRead_draws pa (s.setMode m)).imp id fun hd => ⟨pa, hpa, hd⟩

/-- The only event of a read is an `Abort` (spec/60_exceptions.md R171). -/
theorem busRead_events :
    (busRead fl va s).env.events = s.env.events ∨
      ∃ r, (busRead fl va s).env.events = s.env.events ++ [.abort r] := by
  obtain ⟨m, d, x, hx, h⟩ := busRead_shape fl va s
  have hev : x.env.events = s.env.events := by
    obtain rfl | ⟨m', pa, -, rfl⟩ := hx <;> simp
  obtain h | ⟨-, k, i, h⟩ := h
  · exact .inl (by rw [h, State.answer_events, hev])
  · exact .inr ⟨_, by rw [h, takeFault_eq, State.answer_events, State.emit_events, hev]⟩

end BusReadFrame

/-! ### Frame of the physical write -/

section MemWriteFrame
variable (pa : Nat) (v : Byte) (s : State)

/-- A physical write changes memory only where its address is RAM (spec/43_dispatcher.md R152). -/
theorem memWrite_mem :
    (memWrite pa v s).mem = s.mem ∨ (busTarget s.cfg pa = .ram ∧ (memWrite pa v s).mem = s.mem.write pa v) := by
  obtain h | ⟨ht, h⟩ | ⟨_, _, h⟩ | ⟨_, _, _, h⟩ | ⟨_, _, h⟩ | ⟨_, h⟩ := memWrite_cases pa v s
  case inr.inl => exact .inr ⟨ht, by simp [h]⟩
  all_goals exact .inl (by simp [h])

/-- A physical write changes the page table only where its address is in the table window (spec/43_dispatcher.md
R150). -/
theorem memWrite_pt :
    (memWrite pa v s).pt = s.pt ∨
      ∃ i high, busTarget s.cfg pa = .table i high ∧
        (memWrite pa v s).pt = s.pt.set i (pteSetHalf high (s.pt.get i) v) := by
  obtain h | ⟨_, h⟩ | ⟨_, _, h⟩ | ⟨i, high, ht, h⟩ | ⟨_, _, h⟩ | ⟨_, h⟩ := memWrite_cases pa v s
  case inr.inr.inr.inl => exact .inr ⟨i, high, ht, by simp [h]⟩
  all_goals exact .inl (by simp [h])

/-- A physical write changes the control booleans only where its address is a control register's
(spec/43_dispatcher.md R149). -/
theorem memWrite_ctl :
    (memWrite pa v s).ctl = s.ctl ∨
      ∃ r, busTarget s.cfg pa = .control r ∧ (memWrite pa v s).ctl = ctlSet r (byteBool v) s.ctl := by
  obtain h | ⟨_, h⟩ | ⟨r, ht, h⟩ | ⟨_, _, _, h⟩ | ⟨_, _, h⟩ | ⟨_, h⟩ := memWrite_cases pa v s
  case inr.inr.inl => exact .inr ⟨r, ht, by simp [h]⟩
  all_goals exact .inl (by simp [h])

/-- A physical write ends the run, or draws a free byte for its status, only at the unpaged exit address
(spec/43_dispatcher.md R162). -/
theorem memWrite_halted_draws (hx : busTarget s.cfg pa ≠ .unpagedExit) :
    (memWrite pa v s).env.halted = s.env.halted ∧ (memWrite pa v s).draws = s.draws := by
  obtain h | ⟨_, h⟩ | ⟨_, _, h⟩ | ⟨_, _, _, h⟩ | ⟨_, _, h⟩ | ⟨hx', _⟩ := memWrite_cases pa v s
  case inr.inr.inr.inr.inr => exact absurd hx' hx
  all_goals simp [h]

end MemWriteFrame

/-- A byte of memory changes under a physical write only if it is the byte written, in RAM. -/
theorem memWrite_mem_read {s : State} (w : s.mem.wf s.cfg.memSize = true) (pa : Nat) (v : Byte) {a : Nat}
    (ha : pa ≠ a ∨ busTarget s.cfg a ≠ .ram) : (memWrite pa v s).mem.read a = s.mem.read a := by
  obtain h | ⟨ht, h⟩ := memWrite_mem pa v s
  · rw [h]
  · have hne : pa ≠ a := ha.elim id fun h' e => h' (e ▸ ht)
    rw [h, Memory.read_write w, if_neg hne]

/-- An entry changes under a physical write only if the address is that of one of its two bytes. -/
theorem memWrite_pt_get {s : State} (w : s.pt.wf s.cfg.nEntries = true) (pa : Nat) (v : Byte) {j : Nat}
    (hj : ∀ high : Bool, pa ≠ s.cfg.ptBase + 2 * j + high.toNat) : (memWrite pa v s).pt.get j = s.pt.get j := by
  obtain h | ⟨i, high, ht, h⟩ := memWrite_pt pa v s
  · rw [h]
  · obtain ⟨-, -, -, hpa⟩ := busTarget_table ht
    have hne : i ≠ j := fun e => hj high (e ▸ hpa)
    rw [h, PageTable.get_set w, if_neg hne]

/-- A control boolean changes under a physical write only if the address is its own. -/
theorem memWrite_ctlGet (pa : Nat) (v : Byte) {s : State} {r : CtlReg} (hr : pa ≠ ctlAddress s.cfg r) :
    ctlGet r (memWrite pa v s).ctl = ctlGet r s.ctl := by
  obtain h | ⟨q, ht, h⟩ := memWrite_ctl pa v s
  · rw [h]
  · rw [h, ctlGet_ctlSet_other q r _ _ fun e => hr (e ▸ busTarget_control ht)]

/-! ### Frame of the bus write -/

section BusWriteFrame
variable (va : Nat) (b : Byte) (s : State)

/-- A write changes memory only where it reaches RAM. -/
theorem busWrite_mem :
    (busWrite va b s).mem = s.mem ∨ ∃ pa, writePlace va s = some pa ∧ busTarget s.cfg pa = .ram ∧
      (busWrite va b s).mem = s.mem.write pa b := by
  obtain ⟨pa, hpa, hw⟩ | ⟨kind, -, -, -, hw⟩ := busWrite_eq va b s <;> rw [hw]
  · exact (memWrite_mem pa b s).imp id fun hm => ⟨pa, hpa, hm⟩
  · exact .inl rfl

/-- A write changes the page table only where it reaches the table window. -/
theorem busWrite_pt :
    (busWrite va b s).pt = s.pt ∨ ∃ pa i high, writePlace va s = some pa ∧ busTarget s.cfg pa = .table i high ∧
      (busWrite va b s).pt = s.pt.set i (pteSetHalf high (s.pt.get i) b) := by
  obtain ⟨pa, hpa, hw⟩ | ⟨kind, -, -, -, hw⟩ := busWrite_eq va b s <;> rw [hw]
  · exact (memWrite_pt pa b s).imp id fun ⟨i, high, hp⟩ => ⟨pa, i, high, hpa, hp⟩
  · exact .inl rfl

end BusWriteFrame

/-! ### The image loader -/

/-- The copy stays inside memory and keeps the canonical form. -/
theorem copyImage_wf {size : Nat} {image : List Byte} {start room : Nat} {m : Memory} (w : m.wf size = true)
    (h : start + room ≤ size) : (copyImage image start room m).wf size = true := by
  fun_induction copyImage image start room m with
  | case1 => exact w
  | case2 => exact w
  | case3 start m b rest n ih => exact ih (Memory.wf_write b (by omega) w) (by omega)

/-- Where the copy puts no byte, memory is as before. -/
theorem copyImage_read_outside {size : Nat} {image : List Byte} {start room : Nat} {m : Memory} (w : m.wf size = true)
    (h : start + room ≤ size) {a : Nat} (ha : a < start ∨ start + min image.length room ≤ a) :
    (copyImage image start room m).read a = m.read a := by
  fun_induction copyImage image start room m with
  | case1 => rfl
  | case2 => rfl
  | case3 start m b rest n ih =>
    simp only [List.length_cons] at ha
    rw [ih (Memory.wf_write b (by omega) w) (by omega) (by omega), Memory.read_write w, if_neg (by omega)]

/-- The copy puts the image's byte `k` at `start + k` (spec/70_reset_and_hazards.md R202). -/
theorem copyImage_read_inside {size : Nat} {image : List Byte} {start room : Nat} {m : Memory} (w : m.wf size = true)
    (h : start + room ≤ size) {k : Nat} (hk : k < min image.length room) :
    some ((copyImage image start room m).read (start + k)) = image[k]? := by
  fun_induction copyImage image start room m generalizing k with
  | case1 => simp at hk
  | case2 => simp at hk
  | case3 start m b rest n ih =>
    have hw : (m.write start b).wf size = true := Memory.wf_write b (by omega) w
    cases k with
    | zero =>
      rw [copyImage_read_outside hw (by omega) (by omega), Memory.read_write w]
      simp
    | succ k =>
      simp only [List.length_cons] at hk
      rw [show start + (k + 1) = start + 1 + k by omega, ih hw (by omega) (by omega), List.getElem?_cons_succ]

/-- The load window lies inside memory (log entry 10). -/
theorem loadWindow_le {c : Config} (h : configValid c = true) : loadOffset c + loadWindow c ≤ c.memSize := by
  simp only [configValid, hostValid, Bool.and_eq_true, decide_eq_true_eq] at h
  obtain ⟨-, ⟨hload, -⟩, -⟩ := h
  exact hload

/-- Where the image goes in each profile (spec/00_scope.md R10). -/
theorem loadPlace_cases (c : Config) :
    (c.profile = .paged ∧ loadOffset c = 0xF000 ∧ loadWindow c = 4096) ∨
      (c.profile = .unpaged ∧ loadOffset c = 0x1000 ∧ loadWindow c = c.loadWindowUnpaged) := by
  unfold loadOffset loadWindow
  cases c.profile with
  | paged => exact .inl ⟨rfl, rfl, rfl⟩
  | unpaged => exact .inr ⟨rfl, rfl, rfl⟩

/-- An image that cannot be opened leaves no initial state (spec/70_reset_and_hazards.md R203). -/
@[simp] theorem launch_none (cfg : Config) (mem : Memory) (pt : PageTable) :
    State.launch cfg mem pt none = none := by
  simp [State.launch]

theorem launch_some {cfg : Config} (h : configValid cfg = true) (mem : Memory) (pt : PageTable) (image : List Byte) :
    State.launch cfg mem pt (some image) = some ((State.powerOn cfg mem pt).loadImage image) := by
  simp [State.launch, h]

end Sys2Proof.Machine

/-! ### The invariant -/

namespace Sys2Proof.Safety

open Sys2Proof.Machine

/-- The invariant speaks of the configuration, memory, the page table and the MMU's switch only. -/
theorem Inv.congr {s t : State} (h : Inv s) (hc : t.cfg = s.cfg) (hm : t.mem = s.mem) (hp : t.pt = s.pt)
    (he : t.ctl.enabled = s.ctl.enabled) : Inv t := by
  unfold Inv
  rw [hc, hm, hp, he]
  exact h

theorem Inv.after_countAccess {s : State} (h : Inv s) : Inv (countAccess s) := h.congr rfl rfl rfl rfl

/-- A physical write inside memory keeps the invariant: it stores one byte or one entry inside its array, and the
MMU's switch exists in the paged profile only. -/
theorem Inv.after_memWrite {s : State} (h : Inv s) {pa : Nat} (hpa : pa < s.cfg.memSize) (v : Byte) :
    Inv (memWrite pa v s) := by
  obtain ⟨hcfg, hmem, hpt, hoff⟩ := h
  refine ⟨by simpa using hcfg, ?_, ?_, ?_⟩ <;> rw [memWrite_cfg]
  · obtain hw | ⟨-, hw⟩ := memWrite_mem pa v s <;> rw [hw]
    · exact hmem
    · exact Memory.wf_write v hpa hmem
  · obtain hw | ⟨i, high, ht, hw⟩ := memWrite_pt pa v s <;> rw [hw]
    · exact hpt
    · exact PageTable.wf_set _ (busTarget_table_lt ht) hpt
  · obtain hw | ⟨r, ht, -⟩ := memWrite_ctl pa v s
    · rw [hw]
      exact hoff
    · rw [busTarget_control_paged ht]
      exact nofun

theorem Inv.after_busRead {s : State} (h : Inv s) (fl : AccessFlags) (va : Nat) : Inv (busRead fl va s) :=
  h.congr (busRead_cfg fl va s) (busRead_mem fl va s) (busRead_pt fl va s) (busRead_ctlGet fl va s .enabled nofun)

/-- A write keeps the invariant: its physical address is inside memory, and a fault changes none of the four. -/
theorem Inv.after_busWrite {s : State} (h : Inv s) (va : Nat) (b : Byte) : Inv (busWrite va b s) := by
  obtain ⟨pa, hpa, hw⟩ | ⟨kind, -, -, -, hw⟩ := busWrite_eq va b s <;> rw [hw]
  · exact (h.after_memWrite (writePlace_lt hpa) b).congr rfl rfl rfl rfl
  · exact h.congr rfl rfl rfl rfl

theorem Inv.after_fetchedByte {s t : State} (h : Inv s) {b : Byte} {va index : Nat} {vp : Bool}
    (ht : fetchedByte b va index vp s = .next t) : Inv t := by
  obtain ⟨hc, hm, hp, he⟩ := fetchedByte_frame ht
  exact h.congr hc hm hp he

theorem Inv.after_exec {s t : State} (h : Inv s) {i : Instr} (ht : exec i s = .next t) : Inv t := by
  obtain ⟨fl, va, -, rfl⟩ | ⟨va, b, -, rfl⟩ | ⟨b, va, index, vp, -, hf⟩ := exec_cases ht
  · exact (h.after_busRead fl va).after_countAccess
  · exact (h.after_busWrite va b).after_countAccess
  · exact h.after_fetchedByte hf

theorem Inv.after_serveWord {s t : State} (h : Inv s) {word : BusWord} (ht : serveWord word s = .next t) : Inv t := by
  obtain ⟨i, -, hi⟩ | ⟨b, va, index, vp, -, hf⟩ := serveWord_cases ht
  · exact h.after_exec hi
  · exact h.after_fetchedByte hf

end Sys2Proof.Safety

/-! ### The obligations -/

namespace Sys2Proof.Proofs

open Sys2Proof.Machine Sys2Proof.Safety

/-- Settles O11: the presented word's instruction keeps the invariant (`Inv.after_serveWord`), and the queue and console
input are no part of it. -/
theorem everyStepKeepsTheInvariant : Obligations.EveryStepKeepsTheInvariant := by
  intro s t h hstep
  obtain ⟨-, rfl⟩ | ⟨word, rest, -, hw⟩ | ⟨b, rest, -, rfl⟩ := step_cases hstep
  · exact h
  · have hrest : Inv { s with pending := rest } := h.congr rfl rfl rfl rfl
    exact hrest.after_serveWord hw
  · exact h.congr rfl rfl rfl rfl

/-- Settles O12, at REFCONF, where memory and the page table list nothing. -/
theorem resetMeetsTheInvariantAndServes : Obligations.ResetMeetsTheInvariantAndServes := by
  have hvalid : configValid State.reset.cfg = true := by decide
  exact ⟨⟨hvalid, rfl, rfl, nofun⟩, hvalid, rfl, rfl⟩

/-- Settles O6: with the presented word taken off its queue again, `withFetchWord` leaves the state it was given. -/
theorem stepRunsThePresentedInstruction : Obligations.StepRunsThePresentedInstruction := by
  refine ⟨fun s word rest i hp hd => ?_, fun s nbits w i hd => ?_⟩
  · rw [step_engine hp, serveWord_ok hd]
  · have hp : (s.withFetchWord nbits w).pending = .engine (tableWord nbits w) :: s.pending := rfl
    rw [step_engine hp, serveWord_ok (decode_of_decodeTableWord hd)]
    rfl

/-- Settles O13: the load stays inside memory, so it keeps the canonical form, and `copyImage` puts each byte in its
place. -/
theorem launchSetsThePowerOnValuesAndLoadsTheImage : Obligations.LaunchSetsThePowerOnValuesAndLoadsTheImage := by
  intro cfg mem pt hcfg hmem hpt
  have hroom := loadWindow_le hcfg
  refine ⟨launch_none cfg mem pt, fun image => ⟨_, launch_some hcfg mem pt image, ?inv, ?serving, rfl, rfl, rfl, rfl,
    rfl, rfl, rfl, rfl, rfl, loadOffset cfg, loadWindow cfg, loadPlace_cases cfg, ?inside, ?outside⟩⟩
  case inv => exact ⟨hcfg, copyImage_wf hmem hroom, hpt, fun _ => rfl⟩
  case serving => exact ⟨hcfg, rfl, rfl⟩
  case inside => exact fun k hk => copyImage_read_inside hmem hroom hk
  case outside => exact fun a ha => copyImage_read_outside hmem hroom ha

/-- Settles O16: of the instructions only a write that does not fault changes either, and only where `writePlace` is in
the table window, or RAM. -/
theorem onlyWritesChangeMemoryAndThePageTable : Obligations.OnlyWritesChangeMemoryAndThePageTable := by
  intro i s t h
  obtain ⟨fl, va, -, rfl⟩ | ⟨va, b, rfl, rfl⟩ | ⟨b, va, index, vp, -, hf⟩ := exec_cases h
  · exact ⟨fun hne => absurd (busRead_pt fl va s) hne, fun hne => absurd (busRead_mem fl va s) hne⟩
  · refine ⟨fun hne => ?_, fun hne => ?_⟩
    · obtain ⟨pa, i, high, hpa, ht, -⟩ := (busWrite_pt va b s).resolve_left hne
      obtain ⟨hpaged, hlow, hhigh, -⟩ := busTarget_table ht
      exact ⟨va, b, pa, rfl, hpa, hpaged, hlow, hhigh⟩
    · obtain ⟨pa, hpa, ht, -⟩ := (busWrite_mem va b s).resolve_left hne
      exact ⟨va, b, pa, rfl, hpa, ht⟩
  · obtain ⟨-, hm, hp, -⟩ := fetchedByte_frame hf
    exact ⟨fun hne => absurd hp hne, fun hne => absurd hm hne⟩

/-- Settles O56: by `busRead_shape` a read is mode changes around at most one physical read at `readPlace`, and then its
answer or its `Abort`. -/
theorem readsLeaveEverythingElseUnchanged : Obligations.ReadsLeaveEverythingElseUnchanged := by
  intro fl va s t h
  rw [exec_readInstr] at h
  obtain ⟨-, rfl⟩ := access_eq_next h
  have hmem := busRead_mem fl va s
  have hctl := busRead_ctlGet fl va s
  exact ⟨busRead_cfg fl va s, fun a => congrArg (Memory.read · a) hmem, hmem, busRead_pt fl va s,
    busRead_pending fl va s, busRead_halted fl va s, hctl .enabled nofun, hctl .shadow nofun, hctl .rtiToUser nofun,
    busRead_input fl va s, busRead_draws fl va s, busRead_events fl va s⟩

/-- Settles O57: a write that faults changes only the answer and the events; any other is the physical write at
`writePlace`, whose frame is that of `memWrite`. -/
theorem writesLeaveEverythingElseUnchanged : Obligations.WritesLeaveEverythingElseUnchanged := by
  rintro va b s t ⟨-, hmem, hpt, -⟩ h
  obtain ⟨-, rfl⟩ := access_eq_next h
  obtain ⟨pa, hpa, hw⟩ | ⟨kind, -, hnone, -, hw⟩ := busWrite_eq va b s
  · simp only [hw, hpa, Option.some.injEq, ne_eq]
    exact ⟨memWrite_cfg pa b s, memWrite_pending pa b s, memWrite_input pa b s,
      fun a ha => memWrite_mem_read hmem pa b ha, fun j hj => memWrite_pt_get hpt pa b hj, fun r hr => memWrite_ctlGet pa b hr,
      fun _ e h1 h2 h3 h4 => by subst e; exact memWrite_events b h1 h2 h3 h4,
      fun hx => memWrite_halted_draws pa b s (hx pa rfl)⟩
  · simp [hw, hnone]

end Sys2Proof.Proofs

/-! SUPPORT. Proofs about the memory map (spec/20_memory.md): the paged decode as a table of address windows, and what
the host does between accesses. -/

namespace Sys2Proof.Machine

open Sys2Proof.Safety

/-! ### The paged decode as a table of windows -/

/-- The windows of the paged profile in decode order, each with what its address `pa` leads to: one byte of an entry in
the table window, the same everywhere in any other (spec/20_memory.md R45). -/
def pagedWindows (c : Config) (pa : Nat) : List (AddressRange × Target) :=
  [((c.consoleOut, 1), .consoleOut), ((c.consoleStatus, 1), .consoleStatus), ((c.consoleIn, 1), .consoleIn),
    ((c.trace, 1), .trace), ((c.ctlEnabled, 1), .control .enabled), ((c.ctlSupervisor, 1), .control .supervisor),
    ((c.ctlShadow, 1), .control .shadow), ((c.ctlRtiToUser, 1), .control .rtiToUser),
    ((c.ptBase, tableSize c), .table ((pa - c.ptBase) / 2) (decide ((pa - c.ptBase) % 2 = 1))),
    ((c.romBase, romSize), .rom)]

/-- What the first window that holds `pa` leads to; RAM where none does. -/
def windowTarget (pa : Nat) (l : List (AddressRange × Target)) : Target :=
  match l with
  | [] => .ram
  | (x, t) :: rest => if x.1 ≤ pa ∧ pa < x.1 + x.2 then t else windowTarget pa rest

theorem pagedWindows_ranges (c : Config) (pa : Nat) : (pagedWindows c pa).map Prod.fst = pagedRanges c := rfl

/-- The map as the statements list it is the one that `configValid` checks (spec/43_dispatcher.md R153). -/
theorem statedRanges_eq (c : Config) : statedRanges c = pagedRanges c := rfl

theorem pagedTarget_eq_windowTarget (c : Config) (pa : Nat) :
    pagedTarget c pa = if c.deviceLimit ≤ pa then .ram else windowTarget pa (pagedWindows c pa) := by
  have single (a : Nat) : (a ≤ pa ∧ pa < a + 1) = (pa = a) := by
    rw [eq_iff_iff]
    omega
  simp only [pagedTarget, pagedWindows, windowTarget, single]

/-- Where no two windows share an address, the decode order does not matter: any window that holds `pa` is the first. -/
theorem windowTarget_of_mem {pa : Nat} {l : List (AddressRange × Target)} (hapart : allApart (l.map Prod.fst) = true)
    {x : AddressRange} {t : Target} (hm : (x, t) ∈ l) (hx : x.1 ≤ pa ∧ pa < x.1 + x.2) : windowTarget pa l = t := by
  induction l with
  | nil => cases hm
  | cons w rest ih =>
    simp only [List.map_cons, allApart, Bool.and_eq_true, List.all_eq_true] at hapart
    obtain ⟨hfirst, hrest⟩ := hapart
    obtain rfl | hm := List.mem_cons.1 hm
    · rw [windowTarget, if_pos hx]
    · have hw : ¬(w.1.1 ≤ pa ∧ pa < w.1.1 + w.1.2) := by
        have := hfirst x (List.mem_map_of_mem hm)
        simp only [rangesApart, Bool.or_eq_true, decide_eq_true_eq] at this
        omega
      rw [windowTarget, if_neg hw, ih hrest hm]

theorem windowTarget_of_outside {pa : Nat} {l : List (AddressRange × Target)}
    (h : ∀ x ∈ l.map Prod.fst, pa < x.1 ∨ x.1 + x.2 ≤ pa) : windowTarget pa l = .ram := by
  induction l with
  | nil => rfl
  | cons w rest ih =>
    obtain ⟨hfirst, hrest⟩ := List.forall_mem_cons.1 h
    rw [windowTarget, if_neg (by omega), ih hrest]

/-! ### The physical address map of a valid paged configuration -/

/-- The paged windows are disjoint and lie below `DEVICE_LIMIT` (spec/43_dispatcher.md R153). -/
theorem pagedRanges_valid {c : Config} (hc : configValid c = true) (hp : c.profile = .paged) :
    (∀ x ∈ pagedRanges c, x.1 + x.2 ≤ c.deviceLimit) ∧ allApart (pagedRanges c) = true := by
  simp only [configValid, addressesValid, hp, Bool.and_eq_true, List.all_eq_true, decide_eq_true_eq] at hc
  exact hc.1.1.2

theorem busTarget_of_outside {c : Config} (hp : c.profile = .paged) {pa : Nat}
    (h : ∀ x ∈ pagedRanges c, pa < x.1 ∨ x.1 + x.2 ≤ pa) : busTarget c pa = .ram := by
  rw [← pagedWindows_ranges c pa] at h
  rw [busTarget_of_paged hp, pagedTarget_eq_windowTarget, windowTarget_of_outside h, ite_self]

section PagedMap
variable {c : Config} (hc : configValid c = true) (hp : c.profile = .paged)
include hc hp

theorem busTarget_of_window {pa : Nat} {x : AddressRange} {t : Target} (hm : (x, t) ∈ pagedWindows c pa)
    (hx : x.1 ≤ pa ∧ pa < x.1 + x.2) : busTarget c pa = t := by
  obtain ⟨hbelow, hapart⟩ := pagedRanges_valid hc hp
  rw [← pagedWindows_ranges c pa] at hbelow hapart
  have hlimit := hbelow x (List.mem_map_of_mem hm)
  rw [busTarget_of_paged hp, pagedTarget_eq_windowTarget, if_neg (by omega)]
  exact windowTarget_of_mem hapart hm hx

theorem busTarget_of_device {pa : Nat} {t : Target} (hm : ((pa, 1), t) ∈ pagedWindows c pa) : busTarget c pa = t :=
  busTarget_of_window hc hp hm ⟨le_refl pa, Nat.lt_succ_self pa⟩

/-- Entry `i` lies in the table window as its low byte and then its high byte (spec/30_encoding.md R66). -/
theorem busTarget_tablePlace {i : Nat} (hi : i < c.nEntries) (high : Bool) :
    busTarget c (c.ptBase + 2 * i + high.toNat) = .table i high := by
  have hbit := high.toNat_lt
  have hentry : (c.ptBase + 2 * i + high.toNat - c.ptBase) / 2 = i := by omega
  have hhalf : decide ((c.ptBase + 2 * i + high.toNat - c.ptBase) % 2 = 1) = high := by
    rw [Nat.add_assoc, Nat.add_sub_cancel_left, Nat.mul_add_mod]
    cases high <;> rfl
  have hinside : c.ptBase + 2 * i + high.toNat < c.ptBase + tableSize c := by
    unfold tableSize
    omega
  exact busTarget_of_window hc hp (x := (c.ptBase, tableSize c)) (by simp [pagedWindows, hentry, hhalf])
    ⟨by omega, hinside⟩

theorem busTarget_romPlace {k : Nat} (hk : k < romSize) : busTarget c (c.romBase + k) = .rom :=
  busTarget_of_window hc hp (x := (c.romBase, romSize)) (by simp [pagedWindows]) ⟨by omega, by omega⟩

end PagedMap

/-! ### What the host does between accesses -/

theorem hostAppend_next {s : State} (h : Serving s) (b : Byte) :
    hostAppend b s = .next (s.setInput (s.env.input ++ [b])) := serve_next h

end Sys2Proof.Machine

namespace Sys2Proof.Proofs

open Sys2Proof.Machine Sys2Proof.Safety

/-- Settles O41: the ranges of a valid paged configuration are disjoint and below `DEVICE_LIMIT`, so each address inside
one decodes to that range's own target (`busTarget_of_window`), and every other address to RAM. -/
theorem physicalAddressMapOfThePagedProfile : Obligations.PhysicalAddressMapOfThePagedProfile := by
  intro c hc hp
  have device {pa : Nat} {t : Target} (hm : ((pa, 1), t) ∈ pagedWindows c pa) := busTarget_of_device hc hp hm
  refine ⟨device ?_, device ?_, device ?_, device ?_, device ?_, device ?_, device ?_, device ?_,
    fun i hi => ⟨busTarget_tablePlace hc hp hi false, busTarget_tablePlace hc hp hi true⟩,
    fun k hk => busTarget_romPlace hc hp hk, fun pa hpa => busTarget_of_outside hp (statedRanges_eq c ▸ hpa)⟩
  all_goals simp [pagedWindows]

/-- Settles O7: taking an item off the queue leaves the block serving, and the append writes console input only. -/
theorem hostAppendsConsoleInputBetweenAccesses : Obligations.HostAppendsConsoleInputBetweenAccesses := by
  intro s h
  refine ⟨fun b rest hp => ?_, fun hp => ?_⟩
  · have hrest : Serving { s with pending := rest } := h
    rw [step_host hp, hostAppend_next hrest]
    rfl
  · rw [step_nil hp, serve_next h]

end Sys2Proof.Proofs

/-! SUPPORT. Proofs about the encodings (spec/30_encoding.md): the two word formats field by field, the fetched bytes
with a row of their own, step 8 as one choice, and the permission table. -/

namespace Sys2Proof

/-! ### Fields of a word as numbers -/

theorem toNat_getLsbD {n : Nat} (w : BitVec n) (i : Nat) : (w.getLsbD i).toNat = w.toNat / 2 ^ i % 2 :=
  Nat.toNat_testBit w.toNat i

theorem getLsbD_of_toNat {n : Nat} {w : BitVec n} {i : Nat} {x : Bool} (h : w.toNat / 2 ^ i % 2 = x.toNat) :
    w.getLsbD i = x := (Function.LeftInverse.injective Bool.ofNat_toNat) ((toNat_getLsbD w i).trans h)

theorem extractLsb'_of_toNat {n : Nat} {w : BitVec n} {lo len : Nat} {v : BitVec len}
    (h : w.toNat / 2 ^ lo % 2 ^ len = v.toNat) : w.extractLsb' lo len = v :=
  BitVec.eq_of_toNat_eq ((extractLsb'_toNat_div w lo len).trans h)

theorem extractLsb'_eq_zero_iff {n : Nat} (w : BitVec n) (lo len : Nat) :
    w.extractLsb' lo len = 0 ↔ w.toNat / 2 ^ lo % 2 ^ len = 0 := by
  rw [← extractLsb'_toNat_div, ← BitVec.toNat_inj]
  rfl

/-! ### The request format -/

/-- The request of the three kind bits `rw`, `vpa`, `vp` (spec/30_encoding.md R75, R76). -/
def requestInstr (rw vpa vp : Bool) (va : Nat) (b : Byte) : Instr :=
  match rw, vpa, vp with
  | false, false, false => .r va
  | false, false, true => .v va
  | false, true, false => .f va
  | false, true, true => .fv va
  | true, false, false => .w va b
  | true, false, true => .writeVp
  | true, true, false => .writeVpa
  | true, true, true => .writeVpaVp

/-- The kind field of spec/30_encoding.md R75 from its three bits. -/
def requestKind (rw vpa vp : Bool) : BitVec 3 := BitVec.ofBool rw ++ BitVec.ofBool vpa ++ BitVec.ofBool vp

theorem requestKind_toNat (rw vpa vp : Bool) :
    (requestKind rw vpa vp).toNat = rw.toNat * 4 + vpa.toNat * 2 + vp.toNat := by
  cases rw <;> cases vpa <;> cases vp <;> rfl

/-- The request decoder reads five fields and nothing else of the word. -/
theorem decode_request (x : BitVec 40) :
    decode (.request x) =
      if x.extractLsb' 35 5 = 0 then
        .ok (requestInstr (x.getLsbD 34) (x.getLsbD 33) (x.getLsbD 32) (x.extractLsb' 8 24).toNat (x.extractLsb' 0 8))
      else .error .reservedBits := by
  simp only [decode, decodeRequest]
  congr 1
  cases x.getLsbD 34 <;> cases x.getLsbD 33 <;> cases x.getLsbD 32 <;> rfl

/-- The decoder reads from a request word the fields it was put together from. -/
theorem decode_requestWord (rw vpa vp : Bool) {va : Nat} (h : va < 2 ^ 24) (b : Byte) :
    decode (requestWord (requestKind rw vpa vp) va b) = .ok (requestInstr rw vpa vp va b) := by
  have hx := requestWord_toNat (requestKind rw vpa vp) h b
  rw [requestKind_toNat] at hx
  rw [requestWord, decode_request]
  generalize (0#5 ++ requestKind rw vpa vp ++ BitVec.ofNat 24 va ++ b : BitVec 40) = x at hx
  have hrw := rw.toNat_lt
  have hvpa := vpa.toNat_lt
  have hvp := vp.toNat_lt
  have hb := b.isLt
  have htop : x.extractLsb' 35 5 = 0 := (extractLsb'_eq_zero_iff x 35 5).2 (by omega)
  have hbitRw : x.getLsbD 34 = rw := getLsbD_of_toNat (by omega)
  have hbitVpa : x.getLsbD 33 = vpa := getLsbD_of_toNat (by omega)
  have hbitVp : x.getLsbD 32 = vp := getLsbD_of_toNat (by omega)
  have haddress : (x.extractLsb' 8 24).toNat = va := by
    rw [extractLsb'_toNat_div]
    omega
  have hdata : x.extractLsb' 0 8 = b := extractLsb'_of_toNat (by omega)
  rw [if_pos htop, hbitRw, hbitVpa, hbitVp, haddress, hdata]

/-- A request word without stray bits is its fields put together. -/
theorem requestWord_fields {x : BitVec 40} (h : x.extractLsb' 35 5 = 0) :
    requestWord (requestKind (x.getLsbD 34) (x.getLsbD 33) (x.getLsbD 32)) (x.extractLsb' 8 24).toNat
      (x.extractLsb' 0 8) = .request x := by
  have htop := (extractLsb'_eq_zero_iff x 35 5).1 h
  have hx := x.isLt
  rw [requestWord, BusWord.request.injEq]
  apply BitVec.eq_of_toNat_eq
  rw [requestWord_toNat _ (x.extractLsb' 8 24).isLt, requestKind_toNat]
  simp only [toNat_getLsbD, extractLsb'_toNat_div]
  omega

theorem requestInstr_wellFormed (rw vpa vp : Bool) {va : Nat} (h : va < 2 ^ 24) (b : Byte) :
    (requestInstr rw vpa vp va b).wellFormed = true := by
  cases rw <;> cases vpa <;> cases vp <;> simp only [requestInstr, Instr.wellFormed, h, decide_true]

/-- Kind 100 is the only write without flags. -/
theorem requestInstr_eq_w {rw vpa vp : Bool} {va va' : Nat} {b b' : Byte}
    (h : requestInstr rw vpa vp va b = .w va' b') : rw = true ∧ vpa = false ∧ vp = false := by
  cases rw <;> cases vpa <;> cases vp <;> cases h
  exact ⟨rfl, rfl, rfl⟩

theorem decode_request_ok {x : BitVec 40} {i : Instr} (h : decode (.request x) = .ok i) :
    x.extractLsb' 35 5 = 0 ∧
      i = requestInstr (x.getLsbD 34) (x.getLsbD 33) (x.getLsbD 32) (x.extractLsb' 8 24).toNat
        (x.extractLsb' 0 8) := by
  rw [decode_request] at h
  split at h
  · next htop => exact ⟨htop, (Except.ok.inj h).symm⟩
  · cases h

/-- A write request encodes back to its word: each bit below bit 35 has a meaning. -/
theorem encode_of_decode_write {x : BitVec 40} {va : Nat} {b : Byte} (h : decode (.request x) = .ok (.w va b)) :
    encode (.w va b) = .request x := by
  obtain ⟨htop, hi⟩ := decode_request_ok h
  obtain ⟨hrw, hvpa, hvp⟩ := requestInstr_eq_w hi.symm
  have hfields := requestWord_fields htop
  rw [hrw, hvpa, hvp] at hi hfields
  rw [hi]
  exact hfields

/-! ### The fetched-byte format -/

/-- The fetched bytes with a row in spec/opcode_table.json, each with its instruction. -/
def fetchedRows (va index : Nat) (vp : Bool) : List (Instr × Byte) :=
  [(.rtiByte va index vp, 0x40), (.seiByte va index vp, 0x78), (.waiByte va index vp, 0xCB),
    (.stpByte va index vp, 0xDB), (.xceByte va index vp, 0xFB)]

theorem mem_fetchedRows {i : Instr} {b : Byte} {va index : Nat} {vp : Bool} :
    (i, b) ∈ fetchedRows va index vp ↔
      (i = .rtiByte va index vp ∧ b = 0x40) ∨ (i = .seiByte va index vp ∧ b = 0x78) ∨
        (i = .waiByte va index vp ∧ b = 0xCB) ∨ (i = .stpByte va index vp ∧ b = 0xDB) ∨
        (i = .xceByte va index vp ∧ b = 0xFB) := by
  simp [fetchedRows]

/-- What the decoder makes of a fetched byte and its operands. -/
def fetchedInstr (b : Byte) (va index : Nat) (vp : Bool) : Except DecodeError Instr :=
  if b = 0x40 then .ok (.rtiByte va index vp)
  else if b = 0x78 then .ok (.seiByte va index vp)
  else if b = 0xCB then .ok (.waiByte va index vp)
  else if b = 0xDB then .ok (.stpByte va index vp)
  else if b = 0xFB then .ok (.xceByte va index vp)
  else .error (.noRow b va index vp)

/-- The fetched-byte decoder reads four fields and nothing else of the word. -/
theorem decode_fetched (x : BitVec 48) :
    decode (.fetched x) =
      if x.extractLsb' 43 5 = 0 then
        fetchedInstr (x.extractLsb' 0 8) (x.extractLsb' 8 24).toNat (x.extractLsb' 33 10).toNat (x.getLsbD 32)
      else .error .reservedBits := rfl

theorem fetchedInstr_of_mem {i : Instr} {b : Byte} {va index : Nat} {vp : Bool}
    (h : (i, b) ∈ fetchedRows va index vp) : fetchedInstr b va index vp = .ok i := by
  obtain ⟨rfl, rfl⟩ | ⟨rfl, rfl⟩ | ⟨rfl, rfl⟩ | ⟨rfl, rfl⟩ | ⟨rfl, rfl⟩ := mem_fetchedRows.1 h <;> rfl

/-- The decoder finds a byte's row, or names the byte as one without a row. -/
theorem fetchedInstr_cases (b : Byte) (va index : Nat) (vp : Bool) :
    (∃ i, (i, b) ∈ fetchedRows va index vp ∧ fetchedInstr b va index vp = .ok i) ∨
      ((∀ i, (i, b) ∉ fetchedRows va index vp) ∧ fetchedInstr b va index vp = .error (.noRow b va index vp)) := by
  by_cases h : ∃ i, (i, b) ∈ fetchedRows va index vp
  · obtain ⟨i, hi⟩ := h
    exact .inl ⟨i, hi, fetchedInstr_of_mem hi⟩
  · refine .inr ⟨not_exists.1 h, ?_⟩
    have hrow : ∀ row ∈ fetchedRows va index vp, b ≠ row.2 := fun row hrow hb => h ⟨row.1, hb ▸ hrow⟩
    obtain ⟨hrti, hsei, hwai, hstp, hxce⟩ : b ≠ 0x40 ∧ b ≠ 0x78 ∧ b ≠ 0xCB ∧ b ≠ 0xDB ∧ b ≠ 0xFB := by
      simpa [fetchedRows] using hrow
    rw [fetchedInstr, if_neg hrti, if_neg hsei, if_neg hwai, if_neg hstp, if_neg hxce]

/-- A row's instruction has the row's encoding. -/
theorem encode_of_mem_fetchedRows {i : Instr} {b : Byte} {va index : Nat} {vp : Bool}
    (h : (i, b) ∈ fetchedRows va index vp) :
    encode i = fetchedWord b va index vp ∧ i.wellFormed = fetchOperandsFit va index := by
  obtain ⟨rfl, rfl⟩ | ⟨rfl, rfl⟩ | ⟨rfl, rfl⟩ | ⟨rfl, rfl⟩ | ⟨rfl, rfl⟩ := mem_fetchedRows.1 h <;> exact ⟨rfl, rfl⟩

theorem fetchOperandsFit_iff (va index : Nat) : fetchOperandsFit va index = true ↔ va < 2 ^ 24 ∧ index < 2 ^ 10 := by
  simp [fetchOperandsFit]

/-- The decoder reads from a fetched-byte word the fields it was put together from. -/
theorem decode_fetchedWord (b : Byte) {va index : Nat} (h : va < 2 ^ 24) (hi : index < 2 ^ 10) (vp : Bool) :
    decode (fetchedWord b va index vp) = fetchedInstr b va index vp := by
  have hx := fetchedWord_toNat vp h hi b
  rw [fetchedWord, decode_fetched]
  generalize (0#5 ++ BitVec.ofNat 10 index ++ BitVec.ofBool vp ++ BitVec.ofNat 24 va ++ b : BitVec 48) = x at hx
  have hvp := vp.toNat_lt
  have hb := b.isLt
  have htop : x.extractLsb' 43 5 = 0 := (extractLsb'_eq_zero_iff x 43 5).2 (by omega)
  have hindex : (x.extractLsb' 33 10).toNat = index := by
    rw [extractLsb'_toNat_div]
    omega
  have hbitVp : x.getLsbD 32 = vp := getLsbD_of_toNat (by omega)
  have haddress : (x.extractLsb' 8 24).toNat = va := by
    rw [extractLsb'_toNat_div]
    omega
  have hdata : x.extractLsb' 0 8 = b := extractLsb'_of_toNat (by omega)
  rw [if_pos htop, hdata, haddress, hindex, hbitVp]

/-- A fetched-byte word without stray bits is its fields put together. -/
theorem fetchedWord_fields {x : BitVec 48} (h : x.extractLsb' 43 5 = 0) :
    fetchedWord (x.extractLsb' 0 8) (x.extractLsb' 8 24).toNat (x.extractLsb' 33 10).toNat (x.getLsbD 32) =
      .fetched x := by
  have htop := (extractLsb'_eq_zero_iff x 43 5).1 h
  have hx := x.isLt
  rw [fetchedWord, BusWord.fetched.injEq]
  apply BitVec.eq_of_toNat_eq
  rw [fetchedWord_toNat _ (x.extractLsb' 8 24).isLt (x.extractLsb' 33 10).isLt]
  simp only [toNat_getLsbD, extractLsb'_toNat_div]
  omega

theorem decode_encode_of_mem_fetchedRows {i : Instr} {b : Byte} {va index : Nat} {vp : Bool}
    (h : (i, b) ∈ fetchedRows va index vp) (hw : i.wellFormed = true) : decode (encode i) = .ok i := by
  obtain ⟨hencode, hfit⟩ := encode_of_mem_fetchedRows h
  obtain ⟨hva, hindex⟩ := (fetchOperandsFit_iff va index).1 (hfit ▸ hw)
  rw [hencode, decode_fetchedWord b hva hindex, fetchedInstr_of_mem h]

/-- A decoded fetched byte is well formed and encodes back to its word. -/
theorem encode_of_decode_fetched {x : BitVec 48} {i : Instr} (h : decode (.fetched x) = .ok i) :
    i.wellFormed = true ∧ encode i = .fetched x := by
  rw [decode_fetched] at h
  split at h
  · next htop =>
    obtain ⟨j, hj, hok⟩ | ⟨-, herr⟩ := fetchedInstr_cases (x.extractLsb' 0 8) (x.extractLsb' 8 24).toNat
      (x.extractLsb' 33 10).toNat (x.getLsbD 32)
    · rw [hok] at h
      cases h
      obtain ⟨hencode, hfit⟩ := encode_of_mem_fetchedRows hj
      rw [hfit, hencode, fetchOperandsFit_iff]
      exact ⟨⟨BitVec.isLt _, BitVec.isLt _⟩, fetchedWord_fields htop⟩
    · rw [herr] at h
      cases h
  · cases h

/-- A word named as one without a row carries no row's byte. -/
theorem notMem_fetchedRows_of_decode {word : BusWord} {b : Byte} {va index : Nat} {vp : Bool}
    (h : decode word = .error (.noRow b va index vp)) (i : Instr) : (i, b) ∉ fetchedRows va index vp := by
  cases word with
  | request x =>
    rw [decode_request] at h
    split at h <;> cases h
  | fetched x =>
    rw [decode_fetched] at h
    split at h
    · obtain ⟨j, -, hok⟩ | ⟨hno, herr⟩ := fetchedInstr_cases (x.extractLsb' 0 8) (x.extractLsb' 8 24).toNat
        (x.extractLsb' 33 10).toNat (x.getLsbD 32)
      · rw [hok] at h
        cases h
      · rw [herr] at h
        cases h
        exact hno i
    · cases h

end Sys2Proof

namespace Sys2Proof.Machine

open Sys2Proof.Safety

/-! ### What is presented, and step 8 -/

theorem serveWord_noRow {word : BusWord} {b : Byte} {va index : Nat} {vp : Bool}
    (h : decode word = .error (.noRow b va index vp)) (s : State) :
    serveWord word s = fetchedByte b va index vp s := by
  simp only [serveWord, h]

theorem serveWord_reservedBits {word : BusWord} (h : decode word = .error .reservedBits) (s : State) :
    serveWord word s = .refused .undecodableWord := by
  simp only [serveWord, h]

/-- A row's instruction is step 8 for the row's byte. -/
theorem exec_of_mem_fetchedRows {i : Instr} {b : Byte} {va index : Nat} {vp : Bool}
    (h : (i, b) ∈ fetchedRows va index vp) (s : State) : exec i s = fetchedByte b va index vp s := by
  obtain ⟨rfl, rfl⟩ | ⟨rfl, rfl⟩ | ⟨rfl, rfl⟩ | ⟨rfl, rfl⟩ | ⟨rfl, rfl⟩ := mem_fetchedRows.1 h <;> rfl

/-- The three request kinds of a write with a flag have no step (spec/30_encoding.md R76). -/
theorem exec_write_with_flags {vpa vp : Bool} (h : (vpa || vp) = true) (va : Nat) (b : Byte) (s : State) :
    exec (requestInstr true vpa vp va b) s = .refused .writeWithFlags := by
  cases vpa <;> cases vp <;> cases h <;> rfl

theorem fetchedByte_next {s : State} (h : Serving s) (b : Byte) (va index : Nat) (vp : Bool) :
    fetchedByte b va index vp s =
      .next (if s.ctl.enabled then postFetch b (reduceAddress s.cfg va) ⟨true, vp⟩ index s
        else s.answer (some b) none) := serve_next h

theorem isPrivOpcode_iff (c : Config) (b : Byte) : isPrivOpcode c b = true ↔ b ∈ c.privOpcodes := by
  simp [isPrivOpcode]

/-- Step 8 for any byte but RTI's: forbidden in user mode, or returned as it is (spec/41_translate_read.md R111). -/
theorem postFetch_of_ne_rti {b : Byte} (hb : b ≠ rtiOpcode) (va : Nat) (fl : AccessFlags) (i : Nat) (s : State) :
    postFetch b va fl i s =
      if s.ctl.supervisor = false ∧ b ∈ s.cfg.privOpcodes then
        takeFault (some s.cfg.nopSubst) .privilegeOpcode va fl i s
      else s.answer (some b) none := by
  unfold postFetch
  cases s.ctl.supervisor <;> simp [hb, isPrivOpcode_iff]

/-- A translated read that passes steps 4, 6 and 7 is its physical read, and step 8 for a fetch. -/
theorem busRead_of_readAllowed {fl : AccessFlags} {va : Nat} {s : State} (he : s.ctl.enabled = true)
    (h : readAllowed fl va s = true) :
    busRead fl va s = finishRead (reduceAddress s.cfg va) fl (usedIndex fl va s) (readAddress fl va s)
      (s.setMode (modeAtCheck fl va s)) := by
  simp only [readAllowed, Bool.and_eq_true, Bool.not_eq_true'] at h
  obtain ⟨⟨hpresent, hmode⟩, hframe⟩ := h
  have hmode' : (!modeAtCheck fl va s && !pteUser (usedEntry fl va s)) = false := by
    rw [← Bool.not_or, hmode, Bool.not_true]
  simp [busRead, he, translateRead_eq, hpresent, hmode', hframe]

/-! ### The permission table (spec/30_encoding.md R67) -/

/-- The table as two ordered checks each: `present` and then the mode for a read, `writable` and then the mode for a
write. -/
theorem permissionTable_eq (present writable user supervisor : Bool) :
    permissionTable present writable user supervisor =
      (if present then if !supervisor && !user then some .privilegePage else none else some .pageNotPresent,
        if !writable then some .readOnlyViolation
        else if !supervisor && !user then some .privilegePage else none) := by
  revert present writable user supervisor
  decide

theorem frameOverflows_of_wrap {c : Config} (h : c.frameOverflow = .wrap) (e : Pte) (off : Nat) :
    frameOverflows c e off = false := by
  simp [frameOverflows, h]

/-- A plain read is not shadowed. -/
theorem usedEntry_flagsR (va : Nat) (s : State) :
    usedEntry flagsR va s = s.pt.get (pageIndex s.cfg (reduceAddress s.cfg va)) := by
  simp [usedEntry, usedIndex, readIndex, flagsR, afterForce]

/-- A plain read is checked in the mode it finds. -/
theorem modeAtCheck_flagsR (va : Nat) (s : State) : modeAtCheck flagsR va s = s.ctl.supervisor := by
  simp [modeAtCheck, flagsR]

section Permission
variable {s : State} (henabled : s.ctl.enabled = true) (hwrap : s.cfg.frameOverflow = .wrap) (va : Nat) {e : Pte}
  (he : e = s.pt.get (pageIndex s.cfg (reduceAddress s.cfg va)))
include henabled hwrap he

theorem busRead_flagsR_permission :
    ∃ ρ, (busRead flagsR va s).reply = some ρ ∧ ρ.fault.map FaultRecord.kind =
      (permissionTable (ptePresent e) (pteWritable e) (pteUser e) s.ctl.supervisor).1 := by
  rw [busRead, if_pos henabled, translateRead_eq, usedEntry_flagsR, modeAtCheck_flagsR, ← he,
    frameOverflows_of_wrap hwrap, permissionTable_eq]
  split
  · split
    · exact ⟨_, rfl, rfl⟩
    · exact ⟨_, rfl, rfl⟩
  · exact ⟨_, rfl, rfl⟩

theorem busWrite_permission (b : Byte) :
    ∃ ρ, (busWrite va b s).reply = some ρ ∧ ρ.fault.map FaultRecord.kind =
      (permissionTable (ptePresent e) (pteWritable e) (pteUser e) s.ctl.supervisor).2 := by
  have hfault : writeFault (reduceAddress s.cfg va) s =
      (permissionTable (ptePresent e) (pteWritable e) (pteUser e) s.ctl.supervisor).2 := by
    rw [writeFault, ← he, frameOverflows_of_wrap hwrap, permissionTable_eq]
    rfl
  rw [busWrite, if_pos henabled, translateWrite, ← hfault]
  split
  · next kind hk => exact ⟨_, rfl, by rw [hk]; rfl⟩
  · next hk => exact ⟨_, rfl, by rw [hk]; rfl⟩

end Permission

/-! ### The reference geometry -/

theorem pageSize_of_reference {c : Config} (hm : c.memBits = 24) (hi : c.indexBits = 10) : pageSize c = 2 ^ 14 := by
  rw [pageSize_eq_pow (by omega), Config.offsetBits, hm, hi]

end Sys2Proof.Machine

namespace Sys2Proof.Proofs

open Sys2Proof.Machine Sys2Proof.Safety

/-- Settles O1: one fact for each of the two formats, that the decoder reads back the fields (`decode_requestWord`,
`decode_fetchedWord`). -/
theorem decodeOfEncodeIsTheInstruction : Obligations.DecodeOfEncodeIsTheInstruction := by
  intro i h
  have fetched (b : Byte) (va index : Nat) (vp : Bool) (hm : (i, b) ∈ fetchedRows va index vp) :
      decode (encode i) = .ok i := decode_encode_of_mem_fetchedRows hm h
  cases i with
  | r va => exact decode_requestWord false false false (of_decide_eq_true h) 0
  | v va => exact decode_requestWord false false true (of_decide_eq_true h) 0
  | f va => exact decode_requestWord false true false (of_decide_eq_true h) 0
  | fv va => exact decode_requestWord false true true (of_decide_eq_true h) 0
  | w va b => exact decode_requestWord true false false (of_decide_eq_true h) b
  | writeVp => exact decode_requestWord true false true (Nat.two_pow_pos 24) 0
  | writeVpa => exact decode_requestWord true true false (Nat.two_pow_pos 24) 0
  | writeVpaVp => exact decode_requestWord true true true (Nat.two_pow_pos 24) 0
  | rtiByte va index vp => exact fetched 0x40 va index vp (by simp [fetchedRows])
  | seiByte va index vp => exact fetched 0x78 va index vp (by simp [fetchedRows])
  | waiByte va index vp => exact fetched 0xCB va index vp (by simp [fetchedRows])
  | stpByte va index vp => exact fetched 0xDB va index vp (by simp [fetchedRows])
  | xceByte va index vp => exact fetched 0xFB va index vp (by simp [fetchedRows])

/-- Settles O2: a word without stray bits is its fields put together (`requestWord_fields`, `fetchedWord_fields`), and
in a write request and a fetched byte the instruction keeps every field. -/
theorem decodedInstructionsEncodeBack : Obligations.DecodedInstructionsEncodeBack := by
  intro word i h
  cases word with
  | request x =>
    refine ⟨?_, ?_⟩
    · obtain ⟨-, rfl⟩ := decode_request_ok h
      exact requestInstr_wellFormed _ _ _ (BitVec.isLt _) _
    · rintro (⟨va, b, rfl⟩ | ⟨y, hy⟩)
      · exact encode_of_decode_write h
      · cases hy
  | fetched x =>
    obtain ⟨hwf, hencode⟩ := encode_of_decode_fetched h
    exact ⟨hwf, fun _ => hencode⟩

/-- Settles O8: the byte is not RTI's, which has a row, so step 8 is the choice of `postFetch_of_ne_rti`. -/
theorem fetchedBytesWithoutARowGoThroughStepEight : Obligations.FetchedBytesWithoutARowGoThroughStepEight := by
  intro s word rest b va index vp h hp hd
  have hrest : Serving { s with pending := rest } := h
  have hb : b ≠ rtiOpcode := by
    rintro rfl
    exact notMem_fetchedRows_of_decode hd (.rtiByte va index vp) (List.mem_cons_self ..)
  rw [step_engine hp, serveWord_noRow hd, fetchedByte_next hrest, postFetch_of_ne_rti hb]
  cases he : s.ctl.enabled with
  | true => simp [reduceAddress]
  | false => simp

/-- Settles O32: past the checks a fetch is its physical read and step 8 at the state that read leaves, which is the
byte's own instruction (`exec_of_mem_fetchedRows`). -/
theorem aFetchIsItsReadThenTheFetchedByte : Obligations.AFetchIsItsReadThenTheFetchedByte := by
  intro fl va s s' b i h he hvpa hallowed hread hm
  have hs' : s' = (memRead (readAddress fl va s) (s.setMode (modeAtCheck fl va s))).2 := by rw [hread]
  have hserving : Serving s' := by
    subst hs'
    simpa [Serving] using h
  have hcfg : s'.cfg = s.cfg := by simp [hs']
  have henabled : s'.ctl.enabled = true := by simp [hs', he]
  have hfl : (⟨true, fl.vp⟩ : AccessFlags) = fl := by rw [← hvpa]
  have hbus : busRead fl va s = postFetch b (reduceAddress s.cfg va) fl (usedIndex fl va s) s' := by
    rw [busRead_of_readAllowed he hallowed, finishRead, if_pos hvpa, hread]
  refine ⟨busRead fl va s, ?_, exec_readInstr_next fl va h⟩
  rw [exec_of_mem_fetchedRows hm, fetchedByte_next hserving, if_pos henabled, hcfg, hfl, hbus]

/-- Settles O38: under wrap the translator's checks are the table's (`permissionTable_eq`). -/
theorem permissionBitsDecideReadsAndWritesAsTabled : Obligations.PermissionBitsDecideReadsAndWritesAsTabled := by
  intro va b s e h henabled hwrap he
  obtain ⟨ρ, hreply, hkind⟩ := busRead_flagsR_permission henabled hwrap va he
  obtain ⟨ρ', hreply', hkind'⟩ := busWrite_permission henabled hwrap va he b
  exact ⟨⟨_, ρ, exec_readInstr_next flagsR va h, hreply, hkind⟩, _, ρ', exec_w_next va b h, hreply', hkind'⟩

/-- Settles O3: each word is a closed one, and the decoder evaluates on it. -/
theorem wordsOfTheSpecDecodeAsWritten : Obligations.WordsOfTheSpecDecodeAsWritten := by
  unfold Obligations.WordsOfTheSpecDecodeAsWritten
  decide

/-- Settles O4: a word of kind 101, 110 or 111 decodes to that kind, whatever its address and data bits. -/
theorem writeKindsWithFlagsAreRefused : Obligations.WriteKindsWithFlagsAreRefused := by
  refine ⟨fun s => ⟨rfl, rfl, rfl⟩, fun s x rest hp htop hrw hflag => ?_⟩
  have hd := decode_request x
  rw [if_pos htop, hrw] at hd
  rw [step_engine hp, serveWord_ok hd]
  exact exec_write_with_flags hflag _ _ _

/-- Settles O5: both formats are decoded only where the bits above them are zero. -/
theorem wordsWithStrayBitsAreRefused : Obligations.WordsWithStrayBitsAreRefused := by
  intro s word rest hp hstray
  have hd : decode word = .error .reservedBits := by
    obtain ⟨x, rfl, hx⟩ | ⟨x, rfl, hx⟩ := hstray
    · rw [decode_request, if_neg hx]
    · rw [decode_fetched, if_neg hx]
  rw [step_engine hp, serveWord_reservedBits hd]

/-- Settles O39: a page of the reference geometry has 2^14 bytes. -/
theorem addressesSplitIntoIndexAndOffset : Obligations.AddressesSplitIntoIndexAndOffset := by
  intro c va hm hi hva
  have hpage := pageSize_of_reference hm hi
  have hentries : c.nEntries = 2 ^ 10 := by rw [Config.nEntries, hi]
  simp only [pageIndex, pageOffset, hpage, hentries, extractLsb'_toNat_div, BitVec.toNat_ofNat]
  omega

/-- Settles O40: the entries are listed, and their fields evaluate. -/
theorem exampleEntriesReadAsTabled : Obligations.ExampleEntriesReadAsTabled := by
  unfold Obligations.ExampleEntriesReadAsTabled
  decide

end Sys2Proof.Proofs

/-! SUPPORT. Proofs about the bus façade (spec/40_bus_facade.md): the accesses while the MMU is disabled. -/

namespace Sys2Proof.Machine

open Sys2Proof.Safety

/-! ### Events of the physical write -/

/-- A physical write appends its events and none of them is an `Abort`: only the translator faults
(spec/60_exceptions.md R171). -/
theorem memWrite_new_events (pa : Nat) (v : Byte) (s : State) :
    ∃ new, (memWrite pa v s).env.events = s.env.events ++ new ∧ ∀ r, Event.abort r ∉ new := by
  obtain h | ⟨_, h⟩ | ⟨_, _, h⟩ | ⟨_, _, _, h⟩ | ⟨e, he, h⟩ | ⟨_, h⟩ := memWrite_cases pa v s
  case inr.inr.inr.inr.inl => exact ⟨[e], by rw [h, State.emit_events], by obtain rfl | rfl := he <;> simp⟩
  case inr.inr.inr.inr.inr =>
    obtain ⟨b, s', hs', hexit⟩ := exitWrite_cases v s
    have hevents : s'.env.events = s.env.events := by obtain rfl | rfl := hs' <;> simp
    exact ⟨[.exit b], by rw [h, hexit, State.halt_events, State.emit_events, hevents], by simp⟩
  all_goals exact ⟨[], by simp [h], by simp⟩

/-! ### The façade while the MMU is disabled (spec/40_bus_facade.md R91, R92) -/

section Disabled
variable {s : State} (h : s.ctl.enabled = false)
include h

theorem busRead_of_disabled (fl : AccessFlags) (va : Nat) :
    busRead fl va s =
      (memRead (reduceAddress s.cfg va) s).2.answer (some (memRead (reduceAddress s.cfg va) s).1) none := by
  simp [busRead, h]

theorem busWrite_of_disabled (va : Nat) (b : Byte) :
    busWrite va b s = (memWrite (reduceAddress s.cfg va) b s).answer none none := by
  simp [busWrite, h]

theorem fetchedByte_of_disabled {b : Byte} {va index : Nat} {vp : Bool} {t : State}
    (ht : fetchedByte b va index vp s = .next t) : t = s.answer (some b) none := by
  obtain ⟨-, rfl⟩ := serve_eq_next ht
  simp [h]

/-- No instruction raises a fault: the events it adds hold no `Abort`. -/
theorem exec_new_events_of_disabled {i : Instr} {t : State} (ht : exec i s = .next t) :
    ∃ new, t.env.events = s.env.events ++ new ∧ ∀ r, Event.abort r ∉ new := by
  obtain ⟨fl, va, -, rfl⟩ | ⟨va, b, -, rfl⟩ | ⟨b, va, index, vp, -, hf⟩ := exec_cases ht
  · exact ⟨[], by simp [busRead_of_disabled h], by simp⟩
  · rw [countAccess_events, busWrite_of_disabled h, State.answer_events]
    exact memWrite_new_events _ b s
  · exact ⟨[], by simp [fetchedByte_of_disabled h hf], by simp⟩

end Disabled

end Sys2Proof.Machine

namespace Sys2Proof.Proofs

open Sys2Proof.Machine Sys2Proof.Safety

/-- Settles O18: while disabled the façade hands the reduced address to the dispatcher (`busRead_of_disabled`,
`busWrite_of_disabled`), and no instruction adds an `Abort` (`exec_new_events_of_disabled`). -/
theorem disabledAccessesAreIdentityMappedAndFaultFree : Obligations.DisabledAccessesAreIdentityMappedAndFaultFree := by
  intro s va h hdisabled
  refine ⟨fun fl => ?_, fun b => ?_, fun i t ht r hr => ?_⟩
  · rw [exec_readInstr_next fl va h, busRead_of_disabled hdisabled]
    rfl
  · rw [exec_w_next va b h, busWrite_of_disabled hdisabled]
    rfl
  · obtain ⟨new, hevents, hnew⟩ := exec_new_events_of_disabled hdisabled ht
    rw [hevents, List.mem_append] at hr
    exact hr.resolve_right (hnew r)

end Sys2Proof.Proofs

/-! SUPPORT. Proofs about the translated read (spec/41_translate_read.md): how it ends, by the step that ends it; step 8
for each kind of byte; and the parts of the state a read answers without. -/

namespace Sys2Proof.Machine

open Sys2Proof.Safety

/-! ### Steps 1 to 5: index, entry and mode -/

theorem usedIndex_lt (fl : AccessFlags) (va : Nat) (s : State) : usedIndex fl va s < s.cfg.nEntries := by
  unfold usedIndex readIndex
  split
  · exact shadowTarget_lt s.cfg
  · exact pageIndex_lt s.cfg _

/-- Step 3, with the indexes written out (spec/41_translate_read.md R104). -/
theorem usedIndex_eq_ite (fl : AccessFlags) (va : Nat) (s : State) :
    usedIndex fl va s =
      if (fl.vp || s.ctl.supervisor) = true ∧ (fl.vpa || fl.vp) = true ∧ s.ctl.shadow = true ∧
          pageIndex s.cfg (va % s.cfg.memSize) = s.cfg.shadowPage then s.cfg.nEntries - 1
      else (va % s.cfg.memSize) / (s.cfg.memSize / s.cfg.nEntries) % s.cfg.nEntries := by
  refine if_congr ?_ rfl rfl
  rw [Bool.and_eq_true, Bool.and_eq_true, Bool.and_eq_true, decide_eq_true_eq, and_assoc, and_assoc]
  rfl

/-- A configuration a model takes has pages, so that an offset lies inside one (spec/30_encoding.md R62). -/
theorem pageOffset_lt {c : Config} (h : configValid c = true) (va : Nat) : pageOffset c va < pageSize c := by
  simp only [configValid, geometryValid, Bool.and_eq_true, decide_eq_true_eq] at h
  obtain ⟨⟨⟨⟨⟨hindex, -⟩, -⟩, -⟩, -⟩, -⟩ := h
  rw [pageOffset, pageSize_eq_pow hindex]
  exact Nat.mod_lt _ (Nat.two_pow_pos _)

/-- After step 5: user mode for a fetch through a user entry, and else the mode step 1 has left. -/
theorem modeAtCheck_eq_ite (fl : AccessFlags) (va : Nat) (s : State) :
    modeAtCheck fl va s =
      if fl.vpa = true ∧ pteUser (usedEntry fl va s) = true then false else fl.vp || s.ctl.supervisor := by
  unfold modeAtCheck
  cases fl.vpa <;> cases pteUser (usedEntry fl va s) <;> simp

/-- Step 5 is for fetches only. -/
theorem modeAtCheck_of_not_vpa {fl : AccessFlags} (h : fl.vpa = false) (va : Nat) (s : State) :
    modeAtCheck fl va s = (fl.vp || s.ctl.supervisor) := by
  simp [modeAtCheck_eq_ite, h]

/-- The checks of steps 4, 6 and 7 (spec/41_translate_read.md R106, R108, R109). -/
theorem readAllowed_iff {fl : AccessFlags} {va : Nat} {s : State} :
    readAllowed fl va s = true ↔ ptePresent (usedEntry fl va s) = true ∧
      (modeAtCheck fl va s = true ∨ pteUser (usedEntry fl va s) = true) ∧
      frameOverflows s.cfg (usedEntry fl va s) (pageOffset s.cfg (reduceAddress s.cfg va)) = false := by
  simp [readAllowed, and_assoc]

/-- The mode a translated read leaves, where step 8 does not drop it: step 5 comes after the check of step 4. -/
def readMode (fl : AccessFlags) (va : Nat) (s : State) : Bool :=
  if ptePresent (usedEntry fl va s) then modeAtCheck fl va s else fl.vp || s.ctl.supervisor

theorem readMode_of_present {fl : AccessFlags} {va : Nat} {s : State} (h : ptePresent (usedEntry fl va s) = true) :
    readMode fl va s = modeAtCheck fl va s := if_pos h

/-- Without step 5 only the forcing of step 1 is left. -/
theorem readMode_of_not_vpa {fl : AccessFlags} (h : fl.vpa = false) (va : Nat) (s : State) :
    readMode fl va s = (fl.vp || s.ctl.supervisor) := by
  rw [readMode, modeAtCheck_of_not_vpa h, ite_self]

/-- Step 1 of a vector pull overwrites the mode it finds. -/
theorem busRead_setMode_of_vp {fl : AccessFlags} {s : State} (hvp : fl.vp = true) (he : s.ctl.enabled = true)
    (va : Nat) : busRead fl va (s.setMode true) = busRead fl va s := by
  simp [busRead, he, translateRead, forceSupervisor, hvp, setMode_setMode]

/-! ### Steps 4, 6 and 7: the read that faults before its physical read -/

/-- The fault of a translated read that does not pass steps 4, 6 and 7: that of the first one it fails. -/
def readFault (fl : AccessFlags) (va : Nat) (s : State) : FaultKind :=
  if ptePresent (usedEntry fl va s) then
    if !modeAtCheck fl va s && !pteUser (usedEntry fl va s) then .privilegePage else .frameOutOfRange
  else .pageNotPresent

/-- A translated read that fails one of the checks is its fault and 0x00, with no physical read. -/
theorem busRead_of_not_readAllowed {fl : AccessFlags} {va : Nat} {s : State} (he : s.ctl.enabled = true)
    (h : readAllowed fl va s = false) :
    busRead fl va s = takeFault (some 0x00) (readFault fl va s) (reduceAddress s.cfg va) fl (usedIndex fl va s)
      (s.setMode (readMode fl va s)) := by
  rw [busRead, if_pos he, translateRead_eq]
  unfold readFault readMode
  cases hp : ptePresent (usedEntry fl va s) with
  | false => rfl
  | true =>
    cases hc : !modeAtCheck fl va s && !pteUser (usedEntry fl va s) with
    | true => rfl
    | false =>
      have hover : frameOverflows s.cfg (usedEntry fl va s) (pageOffset s.cfg (reduceAddress s.cfg va)) = true := by
        rw [← Bool.not_or, Bool.not_eq_false'] at hc
        simpa [readAllowed, hp, hc] using h
      rw [hover]
      rfl

/-- A vector pull is in supervisor mode unless step 5 demotes it, and then its entry is a user one: it passes step 6. -/
theorem readFault_ne_privilegePage {fl : AccessFlags} (h : fl.vp = true) (va : Nat) (s : State) :
    readFault fl va s ≠ .privilegePage := by
  have hcheck : (!modeAtCheck fl va s && !pteUser (usedEntry fl va s)) = false := by
    rw [modeAtCheck, h]
    cases pteUser (usedEntry fl va s) <;> simp
  rw [readFault, hcheck]
  split <;> nofun

theorem readFault_ne_privilegeOpcode (fl : AccessFlags) (va : Nat) (s : State) :
    readFault fl va s ≠ .privilegeOpcode := by
  unfold readFault
  repeat' split
  all_goals nofun

/-- A present user entry passes steps 4 and 6 in either mode. -/
theorem readFault_of_user {fl : AccessFlags} {va : Nat} {s : State} (hp : ptePresent (usedEntry fl va s) = true)
    (hu : pteUser (usedEntry fl va s) = true) : readFault fl va s = .frameOutOfRange := by
  simp [readFault, hp, hu]

/-! ### Step 8 (spec/41_translate_read.md R110, R111) -/

/-- 0x78 is forbidden in every configuration a model takes (spec/00_scope.md R9). -/
theorem seiOpcode_mem_privOpcodes {c : Config} (h : configValid c = true) : seiOpcode ∈ c.privOpcodes := by
  simp only [configValid, opcodesValid, Bool.and_eq_true, List.contains_iff_mem] at h
  obtain ⟨⟨-, -, hsei⟩, -⟩ := h
  exact hsei

/-- 0x40 in supervisor mode: returned, with the mode dropped if and only if `rti_to_user` is set. -/
theorem postFetch_rti {s : State} (h : s.ctl.supervisor = true) (va : Nat) (fl : AccessFlags) (i : Nat) :
    postFetch 0x40 va fl i s = (s.setMode (!s.ctl.rtiToUser)).answer (some 0x40) none := by
  unfold postFetch
  rw [if_pos h]
  cases hr : s.ctl.rtiToUser with
  | true => rfl
  | false =>
    have hkeep : s.setMode true = s := by simpa [h] using setMode_self s
    simp [hkeep]

/-- A forbidden byte in user mode: the fault, with `NOP_SUBST` in its place. -/
theorem postFetch_forbidden {b : Byte} {s : State} (h : s.ctl.supervisor = false) (hb : b ∈ s.cfg.privOpcodes)
    (va : Nat) (fl : AccessFlags) (i : Nat) :
    postFetch b va fl i s = takeFault (some s.cfg.nopSubst) .privilegeOpcode va fl i s := by
  simp [postFetch, h, (isPrivOpcode_iff s.cfg b).2 hb]

/-- Every other byte is returned as it is, and nothing else changes. -/
theorem postFetch_unchanged {b : Byte} {s : State}
    (h : (s.ctl.supervisor = true ∧ (b ≠ 0x40 ∨ s.ctl.rtiToUser = false)) ∨
      (s.ctl.supervisor = false ∧ b ∉ s.cfg.privOpcodes)) (va : Nat) (fl : AccessFlags) (i : Nat) :
    postFetch b va fl i s = s.answer (some b) none := by
  unfold postFetch
  obtain ⟨hs, hb⟩ | ⟨hs, hb⟩ := h
  · have hrti : ¬(b = rtiOpcode ∧ s.ctl.rtiToUser = true) := by
      rintro ⟨rfl, hr⟩
      exact hb.elim (absurd rfl) fun hr' => by simp [hr] at hr'
    rw [if_pos hs, if_neg hrti]
  · rw [← isPrivOpcode_iff] at hb
    simp [hs, hb]

/-- Step 8 never raises the mode, and drops it only in supervisor mode. -/
theorem postFetch_supervisor (b : Byte) (va : Nat) (fl : AccessFlags) (i : Nat) (s : State) :
    (postFetch b va fl i s).ctl.supervisor = s.ctl.supervisor ∨ s.ctl.supervisor = true := by
  obtain ⟨m, h, rfl | ⟨-, hs, -⟩⟩ | ⟨-, -, h⟩ := postFetch_cases b va fl i s
  · exact .inl (by rw [h]; rfl)
  · exact .inr hs
  · exact .inl (by rw [h]; rfl)

/-! ### Steps 7 and 8: the read that is allowed -/

theorem memRead_eq_frame {pa : Nat} {s s' : State} {b : Byte} (h : memRead pa s = (b, s')) :
    s'.cfg = s.cfg ∧ s'.ctl = s.ctl := by
  have hs' : s' = (memRead pa s).2 := by rw [h]
  exact ⟨by rw [hs', memRead_cfg], by rw [hs', memRead_ctl]⟩

/-- An allowed fetch is step 8 for the byte of its physical read. -/
theorem busRead_fetch {fl : AccessFlags} {va : Nat} {s s' : State} {b : Byte} (he : s.ctl.enabled = true)
    (hvpa : fl.vpa = true) (h : readAllowed fl va s = true)
    (hread : memRead (readAddress fl va s) (s.setMode (modeAtCheck fl va s)) = (b, s')) :
    busRead fl va s = postFetch b (reduceAddress s.cfg va) fl (usedIndex fl va s) s' := by
  rw [busRead_of_readAllowed he h, finishRead, if_pos hvpa, hread]

/-- The same for a byte not named: step 8 finds the mode of step 5. -/
theorem exists_busRead_fetch {fl : AccessFlags} {va : Nat} {s : State} (he : s.ctl.enabled = true)
    (hvpa : fl.vpa = true) (h : readAllowed fl va s = true) :
    ∃ b s', s'.ctl.supervisor = modeAtCheck fl va s ∧
      busRead fl va s = postFetch b (reduceAddress s.cfg va) fl (usedIndex fl va s) s' :=
  ⟨_, _, congrArg Ctl.supervisor (memRead_ctl _ _), busRead_fetch he hvpa h rfl⟩

/-- An allowed read without `VPA` is its physical read. -/
theorem busRead_plain {fl : AccessFlags} {va : Nat} {s : State} (he : s.ctl.enabled = true) (hvpa : fl.vpa = false)
    (h : readAllowed fl va s = true) :
    busRead fl va s = (memRead (readAddress fl va s) (s.setMode (modeAtCheck fl va s))).2.answer
      (some (memRead (readAddress fl va s) (s.setMode (modeAtCheck fl va s))).1) none := by
  rw [busRead_of_readAllowed he h, finishRead, hvpa]
  rfl

/-! ### The mode and the fault of a read -/

/-- A translated read leaves `readMode`; only step 8, in supervisor mode, can change it again. -/
theorem busRead_supervisor {s : State} (he : s.ctl.enabled = true) (fl : AccessFlags) (va : Nat) :
    (busRead fl va s).ctl.supervisor = readMode fl va s ∨ (fl.vpa = true ∧ readMode fl va s = true) := by
  cases h : readAllowed fl va s with
  | false => exact .inl (by rw [busRead_of_not_readAllowed he h]; rfl)
  | true =>
    rw [readMode_of_present (readAllowed_iff.1 h).1]
    cases hvpa : fl.vpa with
    | false => exact .inl (by simp [busRead_plain he hvpa h])
    | true =>
      obtain ⟨b, s', hmode, hbus⟩ := exists_busRead_fetch he hvpa h
      rw [hbus, ← hmode]
      simpa using postFetch_supervisor b (reduceAddress s.cfg va) fl (usedIndex fl va s) s'

/-- The fault of a read is that of the first check it fails, or step 8's, which a read without `VPA` does not reach. -/
theorem busRead_fault_kind {fl : AccessFlags} {va : Nat} {s : State} {d : Option Byte} {r : FaultRecord}
    (hr : (busRead fl va s).reply = some ⟨d, some r⟩) :
    r.kind = readFault fl va s ∨ (fl.vpa = true ∧ r.kind = .privilegeOpcode) := by
  cases he : s.ctl.enabled with
  | false => simp [busRead_of_disabled he] at hr
  | true =>
    cases h : readAllowed fl va s with
    | false =>
      rw [busRead_of_not_readAllowed he h] at hr
      cases hr
      exact .inl rfl
    | true =>
      cases hvpa : fl.vpa with
      | false => simp [busRead_plain he hvpa h] at hr
      | true =>
        obtain ⟨b, s', -, hbus⟩ := exists_busRead_fetch he hvpa h
        rw [hbus] at hr
        obtain ⟨m, hp, -⟩ | ⟨-, -, hp⟩ := postFetch_cases b (reduceAddress s.cfg va) fl (usedIndex fl va s) s'
        · simp [hp] at hr
        · rw [hp] at hr
          cases hr
          exact .inr ⟨rfl, rfl⟩

/-! ### What a translated read does not look at -/

/-- An update of the state that keeps the configuration and the control booleans, and commutes with all that the
translator does to a state by itself: it touches only what a read reaches by its entry and its physical read. -/
structure UnseenByTranslator (u : State → State) : Prop where
  cfg (s : State) : (u s).cfg = s.cfg
  ctl (s : State) : (u s).ctl = s.ctl
  setMode (s : State) (x : Bool) : (u s).setMode x = u (s.setMode x)
  emit (s : State) (e : Event) : (u s).emit e = u (s.emit e)
  answer (s : State) (d : Option Byte) (f : Option FaultRecord) : (u s).answer d f = u (s.answer d f)

/-- Memory, the page table, the draws and console input are unseen. -/
theorem unseenByTranslator_with (mem : Memory → Memory) (pt : PageTable → PageTable) (draws : Nat → Nat)
    (input : List Byte → List Byte) :
    UnseenByTranslator fun x => { x with
      mem := mem x.mem
      pt := pt x.pt
      draws := draws x.draws
      env := { x.env with input := input x.env.input } } :=
  ⟨fun _ => rfl, fun _ => rfl, fun _ _ => rfl, fun _ _ => rfl, fun _ _ _ => rfl⟩

section Unseen
variable {u : State → State} (hu : UnseenByTranslator u)
include hu

theorem UnseenByTranslator.takeFault (d : Option Byte) (k : FaultKind) (va : Nat) (fl : AccessFlags) (i : Nat)
    (s : State) : takeFault d k va fl i (u s) = u (Machine.takeFault d k va fl i s) := by
  rw [takeFault_eq, hu.emit, hu.answer, takeFault_eq]

theorem UnseenByTranslator.postFetch (b : Byte) (va : Nat) (fl : AccessFlags) (i : Nat) (s : State) :
    postFetch b va fl i (u s) = u (Machine.postFetch b va fl i s) := by
  unfold Machine.postFetch returnToUser
  rw [hu.cfg, hu.ctl, hu.setMode, hu.answer, hu.answer, hu.takeFault]
  repeat' split
  all_goals rfl

theorem UnseenByTranslator.usedIndex (fl : AccessFlags) (va : Nat) (s : State) :
    usedIndex fl va (u s) = Safety.usedIndex fl va s := by
  unfold Safety.usedIndex afterForce readIndex
  rw [hu.setMode, hu.cfg, hu.ctl, hu.cfg, hu.ctl]

/-- A read answers the same without what such an update touches, if its entry and its physical read do. -/
theorem UnseenByTranslator.busRead {fl : AccessFlags} {va : Nat} {s : State} (he : s.ctl.enabled = true)
    (hentry : usedEntry fl va (u s) = usedEntry fl va s)
    (hread : readAllowed fl va s = true → ∀ m, memRead (readAddress fl va s) (u (s.setMode m)) =
      (memRead (readAddress fl va s) (s.setMode m)).map id u) :
    busRead fl va (u s) = u (Machine.busRead fl va s) := by
  have he' : (u s).ctl.enabled = true := by rw [hu.ctl, he]
  have hindex := hu.usedIndex fl va s
  have hmode : modeAtCheck fl va (u s) = modeAtCheck fl va s := by rw [modeAtCheck, hentry, hu.ctl, modeAtCheck]
  have haddress : readAddress fl va (u s) = readAddress fl va s := by rw [readAddress, hentry, hu.cfg, readAddress]
  have hallowed : readAllowed fl va (u s) = readAllowed fl va s := by
    rw [readAllowed, hentry, hmode, hu.cfg, readAllowed]
  cases h : readAllowed fl va s with
  | false =>
    have hfault : readFault fl va (u s) = readFault fl va s := by rw [readFault, hentry, hmode, readFault]
    have hleft : readMode fl va (u s) = readMode fl va s := by rw [readMode, hentry, hmode, hu.ctl, readMode]
    rw [busRead_of_not_readAllowed he' (hallowed.trans h), busRead_of_not_readAllowed he h, hfault, hleft, hindex,
      hu.cfg, hu.setMode, hu.takeFault]
  | true =>
    rw [busRead_of_readAllowed he' (hallowed.trans h), busRead_of_readAllowed he h, hindex, haddress, hmode, hu.cfg,
      hu.setMode, finishRead, finishRead, hread h, Prod.map_fst, Prod.map_snd]
    split
    · exact hu.postFetch _ _ _ _ _
    · exact hu.answer _ _ _

/-- Two states that differ only by such an update are the same to the engine, whose view is the answer, the mode and
what the environment shows. -/
theorem UnseenByTranslator.answers_alike (hkeeps : ∀ x, (u x).reply = x.reply ∧ (u x).env = x.env) {fl : AccessFlags}
    {va : Nat} {s : State} (h : Serving s) (he : s.ctl.enabled = true)
    (hentry : usedEntry fl va (u s) = usedEntry fl va s)
    (hread : readAllowed fl va s = true → ∀ m, memRead (readAddress fl va s) (u (s.setMode m)) =
      (memRead (readAddress fl va s) (s.setMode m)).map id u) :
    ∃ t t', exec (readInstr fl va) s = .next t ∧ exec (readInstr fl va) (u s) = .next t' ∧
      t'.reply = t.reply ∧ t'.ctl = t.ctl ∧ t'.env.events = t.env.events ∧ t'.env.input = t.env.input := by
  have h' : Serving (u s) := by rwa [Serving, hu.cfg, (hkeeps s).2]
  refine ⟨_, _, exec_readInstr_next fl va h, exec_readInstr_next fl va h', ?_⟩
  obtain ⟨hreply, henv⟩ := hkeeps (Machine.busRead fl va s)
  simp [hu.busRead he hentry hread, hreply, henv, hu.ctl]

end Unseen

/-! ### What a physical read does not look at -/

section MemRead
variable {pa : Nat} {s : State}

/-- A physical read shows no byte of memory but the one at its address. -/
theorem memRead_with_mem {mem' : Memory} (h : mem'.read pa = s.mem.read pa) :
    memRead pa { s with mem := mem' } = (memRead pa s).map id ({ · with mem := mem' }) := by
  cases ht : busTarget s.cfg pa with
  | consoleIn =>
    simp only [memRead, ht, consoleInRead]
    split <;> rfl
  | rom | ram => simp [memRead, ht, h]
  | consoleOut | consoleStatus | trace | control | table | unpagedStatus | unpagedOut | unpagedExit =>
    simp only [memRead, ht]
    rfl

/-- A physical read outside the table window shows nothing of the page table. -/
theorem memRead_with_pt (h : ∀ i high, busTarget s.cfg pa ≠ .table i high) (pt' : PageTable) :
    memRead pa { s with pt := pt' } = (memRead pa s).map id ({ · with pt := pt' }) := by
  cases ht : busTarget s.cfg pa with
  | table i high => exact absurd ht (h i high)
  | consoleIn =>
    simp only [memRead, ht, consoleInRead]
    split <;> rfl
  | consoleOut | consoleStatus | trace | control | rom | ram | unpagedStatus | unpagedOut | unpagedExit =>
    simp only [memRead, ht]
    rfl

/-- A physical read that is no draw shows nothing of the free values to come. -/
theorem memRead_with_draws (h : busTarget s.cfg pa ≠ .trace ∧ busTarget s.cfg pa ≠ .unpagedOut ∧
    busTarget s.cfg pa ≠ .unpagedExit) (n : Nat) :
    memRead pa { s with draws := n } = (memRead pa s).map id ({ · with draws := n }) := by
  obtain ⟨htrace, hout, hexit⟩ := h
  cases ht : busTarget s.cfg pa with
  | trace => exact absurd ht htrace
  | unpagedOut => exact absurd ht hout
  | unpagedExit => exact absurd ht hexit
  | consoleIn =>
    simp only [memRead, ht, consoleInRead]
    split <;> rfl
  | consoleOut | consoleStatus | control | table | rom | ram | unpagedStatus =>
    simp only [memRead, ht]
    rfl

end MemRead

end Sys2Proof.Machine

namespace Sys2Proof.Proofs

open Sys2Proof.Machine Sys2Proof.Safety

/-- Settles O22: such a read is not allowed, and the first check it fails is step 4's. -/
theorem readsThroughNotPresentEntriesFault : Obligations.ReadsThroughNotPresentEntriesFault := by
  intro fl va s h he hp
  have hpresent : ptePresent (usedEntry fl va s) = false := hp
  have hallowed : readAllowed fl va s = false := by simp [readAllowed, hpresent]
  have hfault : readFault fl va s = .pageNotPresent := by simp [readFault, hpresent]
  have hmode : readMode fl va s = (fl.vp || s.ctl.supervisor) := by simp [readMode, hpresent]
  rw [exec_readInstr_next fl va h, busRead_of_not_readAllowed he hallowed, hfault, hmode]
  rfl

/-- Settles O23: in user mode step 6 is the first check such a read fails, and a vector pull passes it
(`readFault_ne_privilegePage`). -/
theorem userReadsOfSupervisorPagesFault : Obligations.UserReadsOfSupervisorPagesFault := by
  refine ⟨fun fl va s h he hs hvp hp hu => ?_, fun fl va s t hvp ht d r hr => ?_⟩
  · have hpresent : ptePresent (usedEntry fl va s) = true := hp
    have huser : pteUser (usedEntry fl va s) = false := hu
    have hcheck : modeAtCheck fl va s = false := by simp [modeAtCheck, hvp, hs]
    have hallowed : readAllowed fl va s = false := by simp [readAllowed, hcheck, huser]
    have hfault : readFault fl va s = .privilegePage := by simp [readFault, hpresent, hcheck, huser]
    have hmode : readMode fl va s = s.ctl.supervisor := by rw [readMode_of_present hpresent, hcheck, hs]
    rw [exec_readInstr_next fl va h, busRead_of_not_readAllowed he hallowed, hfault, hmode, setMode_self]
    rfl
  · rw [exec_readInstr] at ht
    obtain ⟨-, rfl⟩ := access_eq_next ht
    obtain hk | ⟨-, hk⟩ := busRead_fault_kind hr <;> rw [hk]
    · exact readFault_ne_privilegePage hvp va s
    · nofun

/-- Settles O24: past steps 4 and 6 the read is allowed or not by `frameOverflows`, whose raw address is the one the
statement writes out (`pteFrame_eq`). -/
theorem plainReadsReturnThePhysicalByte : Obligations.PlainReadsReturnThePhysicalByte := by
  intro fl va s h he hvpa hp hmu raw hraw
  have hpresent : ptePresent (usedEntry fl va s) = true := hp
  have hmode := modeAtCheck_of_not_vpa hvpa va s
  have hcheck : modeAtCheck fl va s = true ∨ pteUser (usedEntry fl va s) = true := by rwa [hmode]
  have hraw' : rawAddress s.cfg (usedEntry fl va s) (pageOffset s.cfg (reduceAddress s.cfg va)) = raw := by
    rw [hraw, rawAddress, pteFrame_eq]
    rfl
  refine ⟨fun hin => ?_, fun hpast hfault => ?_⟩
  · have hframe : frameOverflows s.cfg (usedEntry fl va s) (pageOffset s.cfg (reduceAddress s.cfg va)) = false := by
      rw [frameOverflows, hraw']
      obtain hlt | hwrap := hin
      · simp [hlt]
      · simp [hwrap]
    have haddress : readAddress fl va s = raw % s.cfg.memSize := by rw [readAddress, physicalAddress, hraw']
    have hallowed : readAllowed fl va s = true := readAllowed_iff.2 ⟨hpresent, hcheck, hframe⟩
    rw [exec_readInstr_next fl va h, busRead_plain he hvpa hallowed, haddress, hmode]
  · have hframe : frameOverflows s.cfg (usedEntry fl va s) (pageOffset s.cfg (reduceAddress s.cfg va)) = true := by
      simp [frameOverflows, hraw', hpast, hfault]
    have hallowed : readAllowed fl va s = false := by simp [readAllowed, hframe]
    have hkind : readFault fl va s = .frameOutOfRange := by
      obtain hm | hu := hcheck
      · simp [readFault, hpresent, hm]
      · exact readFault_of_user hpresent hu
    rw [exec_readInstr_next fl va h, busRead_of_not_readAllowed he hallowed, hkind, readMode_of_not_vpa hvpa]
    rfl

/-- Settles O25: the fetch is step 8 for the byte read (`busRead_fetch`), which lets it through
(`postFetch_unchanged`). -/
theorem fetchesReturnTheBytesStepEightLetsThrough : Obligations.FetchesReturnTheBytesStepEightLetsThrough := by
  intro fl va s s' b h he hvpa hallowed hread hb
  obtain ⟨hcfg, hctl⟩ := memRead_eq_frame hread
  have hmode : s'.ctl.supervisor = modeAtCheck fl va s := by rw [hctl]; rfl
  have hrti : s'.ctl.rtiToUser = s.ctl.rtiToUser := by rw [hctl]; rfl
  rw [← hmode, ← hrti, show s.cfg = s'.cfg from hcfg.symm] at hb
  rw [exec_readInstr_next fl va h, busRead_fetch he hvpa hallowed hread, postFetch_unchanged hb]
  exact ⟨rfl, hmode⟩

/-- Settles O26: step 1 overwrites the mode a vector pull finds, and without `VPA` no later step changes it again
(`busRead_supervisor`). -/
theorem vectorPullsForceSupervisorMode : Obligations.VectorPullsForceSupervisorMode := by
  refine ⟨fun fl va s hvp he => ?_, fun va s h he => ⟨_, exec_readInstr_next flagsV va h, ?_⟩⟩
  · have hbus : busRead fl va (s.setMode true) = busRead fl va s := busRead_setMode_of_vp hvp he va
    have hforced : { s with ctl := { s.ctl with supervisor := true } } = s.setMode true := rfl
    rw [hforced, exec_readInstr, exec_readInstr]
    simp only [access, serve, hbus, State.setMode_cfg, State.setMode_halted, State.setMode_dump]
  · rw [countAccess_ctl]
    have hmode : readMode flagsV va s = true := readMode_of_not_vpa rfl va s
    rw [← hmode]
    exact (busRead_supervisor he flagsV va).resolve_right fun hvpa => nomatch hvpa.1

/-- Settles O27: the index is the one `readIndex` chooses; and with the last entry used, the table is unseen but through
its window (`UnseenByTranslator.busRead`, `memRead_with_pt`). -/
theorem onlySupervisorFetchesAndVectorPullsAreShadowed :
    Obligations.OnlySupervisorFetchesAndVectorPullsAreShadowed := by
  have hshadowed (fl : AccessFlags) (va : Nat) (s : State) (hs : (fl.vp || s.ctl.supervisor) = true)
      (hfl : (fl.vpa || fl.vp) = true) (hshadow : s.ctl.shadow = true)
      (hpage : pageIndex s.cfg (va % s.cfg.memSize) = s.cfg.shadowPage) : usedIndex fl va s = s.cfg.nEntries - 1 := by
    rw [usedIndex_eq_ite, if_pos ⟨hs, hfl, hshadow, hpage⟩]
  refine ⟨hshadowed, fun fl va s pt' h he hs hfl hshadow hpage hlast htable => ?_, fun fl va s hother => ?_⟩
  · have hunseen : UnseenByTranslator ({ · with pt := pt' }) :=
      unseenByTranslator_with id (fun _ => pt') id id
    have hentry : usedEntry fl va { s with pt := pt' } = usedEntry fl va s := by
      rw [usedEntry, hunseen.usedIndex, usedEntry, hshadowed fl va s hs hfl hshadow hpage]
      exact hlast
    refine ⟨_, exec_readInstr_next fl va h, ?_⟩
    rw [exec_readInstr_next fl va (s := { s with pt := pt' }) h,
      hunseen.busRead he hentry fun _ m => memRead_with_pt (s := s.setMode m) htable pt']
    rfl
  · rw [usedIndex_eq_ite, if_neg]
    rintro ⟨hs, hfl, hshadow, hpage⟩
    obtain ⟨hvpa, hvp⟩ | ⟨hvp, huser⟩ | hclear | hother := hother
    · simp [hvpa, hvp] at hfl
    · simp [hvp, huser] at hs
    · simp [hclear] at hshadow
    · exact hother hpage

/-- Settles O28: past step 4 the read leaves the mode of `modeAtCheck` (`busRead_supervisor`), and a user entry passes
step 6 (`readFault_of_user`). -/
theorem fetchesFromUserPagesDemote : Obligations.FetchesFromUserPagesDemote := by
  intro fl va s h he hp hu
  have huser : pteUser (usedEntry fl va s) = true := hu
  refine ⟨_, exec_readInstr_next fl va h, ?_, fun d r hvpa hr => ?_⟩
  · have hmode : readMode fl va s = if fl.vpa then false else fl.vp || s.ctl.supervisor := by
      rw [readMode_of_present hp, modeAtCheck_eq_ite]
      simp [huser]
    rw [countAccess_ctl, ← hmode]
    refine (busRead_supervisor he fl va).resolve_right ?_
    rintro ⟨hvpa, htrue⟩
    rw [hmode, hvpa] at htrue
    cases htrue
  · obtain hk | ⟨hvpa', -⟩ := busRead_fault_kind hr
    · exact hk.trans (readFault_of_user hp hu)
    · rw [hvpa] at hvpa'
      cases hvpa'

/-- Settles O29: step 8 at the state the physical read leaves, which has the mode of step 5 (`postFetch_rti`). -/
theorem supervisorRtiFetchesDropToUserMode : Obligations.SupervisorRtiFetchesDropToUserMode := by
  intro fl va s s' h he hvpa hallowed hmode hread
  obtain ⟨-, hctl⟩ := memRead_eq_frame hread
  have hset (x : Bool) : s'.setMode x = { s' with ctl := { s.ctl with supervisor := x } } := by
    rw [State.setMode, State.setCtl, hctl]
    rfl
  have hrti : s'.ctl.rtiToUser = s.ctl.rtiToUser := by rw [hctl]; rfl
  rw [← hmode] at hread
  rw [exec_readInstr_next fl va h, busRead_fetch he hvpa hallowed hread, postFetch_rti (by rw [hctl]; rfl), hrti, hset]

/-- Settles O31: step 8 refuses the byte (`postFetch_forbidden`), and no other fault of a read has its kind
(`busRead_fault_kind`). -/
theorem userFetchesOfForbiddenBytesFault : Obligations.UserFetchesOfForbiddenBytesFault := by
  refine ⟨fun fl va s s' b h he hvpa hallowed hmode hread hb => ?_, fun fl va s t hvpa ht d r hr => ?_, by decide⟩
  · obtain ⟨hcfg, hctl⟩ := memRead_eq_frame hread
    have hcfg' : s'.cfg = s.cfg := hcfg
    rw [← hmode] at hread
    rw [exec_readInstr_next fl va h, busRead_fetch he hvpa hallowed hread,
      postFetch_forbidden (by rw [hctl]; rfl) (by rwa [hcfg']), hcfg']
    rfl
  · rw [exec_readInstr] at ht
    obtain ⟨-, rfl⟩ := access_eq_next ht
    obtain hk | ⟨hvpa', -⟩ := busRead_fault_kind hr
    · exact hk ▸ readFault_ne_privilegeOpcode fl va s
    · rw [hvpa] at hvpa'
      cases hvpa'

/-- Settles O58: each of the five is `fetchedByte` for its byte, and all that can do is in `fetchedByte_cases`. -/
theorem fetchedBytesLeaveEverythingElseUnchanged : Obligations.FetchedBytesLeaveEverythingElseUnchanged := by
  intro va index vp i s t hi ht
  have hi' : i ∈ (fetchedRows va index vp).map Prod.fst := hi
  obtain ⟨⟨i, b⟩, hrow, rfl⟩ := List.mem_map.1 hi'
  rw [exec_of_mem_fetchedRows hrow] at ht
  obtain ⟨-, ⟨m, rfl, hm⟩ | ⟨-, -, -, rfl⟩⟩ := fetchedByte_cases b va index vp ht
  · refine ⟨m, [], ?_, .inl rfl, hm.imp id fun ⟨hfalse, _, _, hb, _⟩ => ⟨?_, hfalse⟩⟩
    · rw [List.append_nil]
      rfl
    · subst hb
      exact Except.ok.inj (fetchedInstr_of_mem hrow).symm
  · exact ⟨s.ctl.supervisor, _, rfl, .inr ⟨_, rfl⟩, .inl rfl⟩

/-- Settles O59: memory, input and draws are unseen by the translator, and no physical read happens. -/
theorem faultingReadsShowNoMemoryOrDeviceData : Obligations.FaultingReadsShowNoMemoryOrDeviceData := by
  intro fl va n s t mem' input' he hallowed ht
  rw [exec_readInstr] at ht
  obtain ⟨h, rfl⟩ := access_eq_next ht
  have hunseen : UnseenByTranslator fun x =>
      { x with mem := mem', draws := n, env := { x.env with input := input' } } :=
    unseenByTranslator_with (fun _ => mem') id (fun _ => n) (fun _ => input')
  have hbus := hunseen.busRead he rfl fun hallowed' => nomatch hallowed.symm.trans hallowed'
  refine ⟨_, exec_readInstr_next fl va h, ?_⟩
  rw [hbus]
  exact ⟨rfl, rfl, rfl, rfl, rfl, rfl⟩

/-- Settles O20: a user-mode read that is allowed comes through a present user entry, so the byte it reaches is one the
two states share, and the rest of memory and the draws to come are unseen. -/
theorem userReadsLearnOnlyWhatUserPagesHold : Obligations.UserReadsLearnOnlyWhatUserPagesHold := by
  intro s mem' n fl va h he hs hvp hdraw hmem
  have hpage (hallowed : readAllowed fl va s = true) :
      mem'.read (readAddress fl va s) = s.mem.read (readAddress fl va s) := by
    obtain ⟨hpresent, hcheck, -⟩ := readAllowed_iff.1 hallowed
    have huser : pteUser (usedEntry fl va s) = true := hcheck.resolve_left (by simp [modeAtCheck, hvp, hs])
    exact hmem _ _ (usedIndex_lt fl va s) (pageOffset_lt h.1 _) hpresent huser
  obtain rfl | hfree := hdraw
  · have hunseen : UnseenByTranslator ({ · with mem := mem' }) :=
      unseenByTranslator_with (fun _ => mem') id id id
    exact hunseen.answers_alike (fun _ => ⟨rfl, rfl⟩) h he rfl fun hallowed m =>
      memRead_with_mem (s := s.setMode m) (hpage hallowed)
  · have hunseen : UnseenByTranslator ({ · with mem := mem', draws := n }) :=
      unseenByTranslator_with (fun _ => mem') id (fun _ => n) id
    refine hunseen.answers_alike (fun _ => ⟨rfl, rfl⟩) h he rfl fun hallowed m => ?_
    have hplace : readPlace fl va s = some (readAddress fl va s) := by simp [readPlace, he, hallowed]
    have hmemory := memRead_with_mem (s := { s.setMode m with draws := n }) (hpage hallowed)
    rw [memRead_with_draws (s := s.setMode m) (hfree _ hplace) n] at hmemory
    exact hmemory

/-- Settles O30: the byte's instruction is step 8 for it (`postFetch_rti`). -/
theorem theRtiByteDropsSupervisorToUserMode : Obligations.TheRtiByteDropsSupervisorToUserMode := by
  intro va index vp s h he hs
  have hexec : exec (.rtiByte va index vp) s = fetchedByte 0x40 va index vp s := rfl
  rw [hexec, fetchedByte_next h, if_pos he, postFetch_rti hs]
  rfl

/-- Settles O33: each byte is forbidden, 0x78 by every configuration a model takes (`seiOpcode_mem_privOpcodes`). -/
theorem forbiddenFetchedBytesFaultInUserMode : Obligations.ForbiddenFetchedBytesFaultInUserMode := by
  intro va index vp s i b h he hs hi hb
  have hrow : (i, b) ∈ fetchedRows va index vp := List.mem_cons_of_mem _ hi
  have hforbidden : b ∈ s.cfg.privOpcodes := by
    obtain rfl | hb := hb
    · exact seiOpcode_mem_privOpcodes h.1
    · exact hb
  rw [exec_of_mem_fetchedRows hrow, fetchedByte_next h, if_pos he, postFetch_forbidden hs hforbidden]
  rfl

/-- Settles O34: the byte has no effect while disabled, and otherwise step 8 lets it through (`postFetch_unchanged`). -/
theorem otherFetchedBytesAreReturnedUnchanged : Obligations.OtherFetchedBytesAreReturnedUnchanged := by
  intro va index vp s i b h hi hcases
  have hrow : (i, b) ∈ fetchedRows va index vp := hi
  rw [exec_of_mem_fetchedRows hrow, fetchedByte_next h]
  obtain hoff | hlet := hcases
  · rw [hoff]
    rfl
  · rw [postFetch_unchanged hlet, ite_self]

end Sys2Proof.Proofs

/-! SUPPORT. Proofs about the translated write (spec/42_translate_write.md): the check that ends it, in the order of the
checks, and the physical write of the one that passes them all. -/

namespace Sys2Proof.Machine

open Sys2Proof.Safety

/-! ### Steps 2 to 4: the check that fails first -/

section Checks
variable {va : Nat} {s : State}

/-- Step 2 is the first check (spec/42_translate_write.md R131). -/
theorem writeFault_of_not_writable (hw : pteWritable (s.pt.get (pageIndex s.cfg va)) = false) :
    writeFault va s = some .readOnlyViolation := by
  simp [writeFault, hw]

/-- Step 3 comes next, and ends a user-mode write to a supervisor page (spec/42_translate_write.md R133). -/
theorem writeFault_of_user_mode (hw : pteWritable (s.pt.get (pageIndex s.cfg va)) = true)
    (hs : s.ctl.supervisor = false) (hu : pteUser (s.pt.get (pageIndex s.cfg va)) = false) :
    writeFault va s = some .privilegePage := by
  simp [writeFault, hw, hs, hu]

/-- Past steps 2 and 3 only the frame is left to check (spec/42_translate_write.md R134). -/
theorem writeFault_of_permitted (hw : pteWritable (s.pt.get (pageIndex s.cfg va)) = true)
    (hmu : s.ctl.supervisor = true ∨ pteUser (s.pt.get (pageIndex s.cfg va)) = true) :
    writeFault va s =
      if frameOverflows s.cfg (s.pt.get (pageIndex s.cfg va)) (pageOffset s.cfg va) then some .frameOutOfRange
      else none := by
  obtain hs | hu := hmu
  · simp [writeFault, hw, hs]
  · simp [writeFault, hw, hu]

theorem writeFault_ne_privilegePage (hs : s.ctl.supervisor = true) : writeFault va s ≠ some .privilegePage := by
  cases hw : pteWritable (s.pt.get (pageIndex s.cfg va)) with
  | false =>
    rw [writeFault_of_not_writable hw]
    nofun
  | true =>
    rw [writeFault_of_permitted hw (.inl hs)]
    split <;> nofun

end Checks

/-- The frame check passes inside the physical space, and everywhere under the default (spec/41_translate_read.md R109,
D4). -/
theorem frameOverflows_eq_false_iff {c : Config} {e : Pte} {off : Nat} :
    frameOverflows c e off = false ↔ rawAddress c e off < c.memSize ∨ c.frameOverflow = .wrap := by
  cases h : c.frameOverflow <;> simp [frameOverflows, h]

/-! ### The write as an instruction -/

/-- A translated write that fails a check is its fault, with no physical write. -/
theorem exec_w_of_writeFault {va : Nat} {s : State} {kind : FaultKind} (h : Serving s) (he : s.ctl.enabled = true)
    (hf : writeFault (reduceAddress s.cfg va) s = some kind) (b : Byte) :
    exec (.w va b) s = .next (countAccess (takeFault none kind (reduceAddress s.cfg va) flagsW
      (pageIndex s.cfg (reduceAddress s.cfg va)) s)) := by
  rw [exec_w_next va b h, busWrite, if_pos he, translateWrite, hf]

/-- A translated write that passes the checks is its physical write. -/
theorem exec_w_of_no_writeFault {va : Nat} {s : State} (h : Serving s) (he : s.ctl.enabled = true)
    (hf : writeFault (reduceAddress s.cfg va) s = none) (b : Byte) :
    exec (.w va b) s =
      .next (countAccess ((memWrite (writeAddress (reduceAddress s.cfg va) s) b s).answer none none)) := by
  rw [exec_w_next va b h, busWrite, if_pos he, translateWrite, hf]

/-- The fault a write answers is that of the first check it fails. -/
theorem busWrite_fault_kind {va : Nat} {b : Byte} {s : State} {d : Option Byte} {r : FaultRecord}
    (hr : (busWrite va b s).reply = some ⟨d, some r⟩) : writeFault (reduceAddress s.cfg va) s = some r.kind := by
  obtain ⟨pa, -, hbus⟩ | ⟨kind, -, -, hf, hbus⟩ := busWrite_eq va b s
  · simp [hbus] at hr
  · rw [hbus] at hr
    cases hr
    exact hf

end Sys2Proof.Machine

namespace Sys2Proof.Proofs

open Sys2Proof.Machine Sys2Proof.Safety

/-- Settles O36: in user mode step 3 is the first check such a write fails, and a supervisor write passes it
(`writeFault_ne_privilegePage`). -/
theorem userWritesToSupervisorPagesFault : Obligations.UserWritesToSupervisorPagesFault := by
  refine ⟨fun va index b s h he hs hindex hw hu => ?_, fun va b s t hs ht d r hr hk => ?_⟩
  · subst hindex
    exact exec_w_of_writeFault h he (writeFault_of_user_mode hw hs hu) b
  · obtain ⟨-, rfl⟩ := access_eq_next ht
    have hf : writeFault (reduceAddress s.cfg va) s = some r.kind := busWrite_fault_kind hr
    exact writeFault_ne_privilegePage hs (hk ▸ hf)

/-- Settles O37: past steps 2 and 3 the write is performed or not by `frameOverflows` (`writeFault_of_permitted`), whose
raw address is the one the statement writes out (`pteFrame_eq`). -/
theorem allowedWritesReachThePhysicalAddress : Obligations.AllowedWritesReachThePhysicalAddress := by
  intro va index raw b s h he hindex hw hmu hraw
  subst hindex
  have hraw' : rawAddress s.cfg (s.pt.get (pageIndex s.cfg (reduceAddress s.cfg va)))
      (pageOffset s.cfg (reduceAddress s.cfg va)) = raw := by
    rw [hraw, rawAddress, pteFrame_eq]
    rfl
  have hfault := writeFault_of_permitted (va := reduceAddress s.cfg va) hw hmu
  refine ⟨fun hin => ?_, fun hpast hoverflow => ?_⟩
  · have hnone : writeFault (reduceAddress s.cfg va) s = none := by
      rw [hfault, frameOverflows_eq_false_iff.2 (hraw'.symm ▸ hin)]
      rfl
    rw [exec_w_of_no_writeFault h he hnone, writeAddress, physicalAddress, hraw']
  · have hsome : writeFault (reduceAddress s.cfg va) s = some .frameOutOfRange := by
      rw [hfault]
      simp [frameOverflows, hraw', hpast, hoverflow]
    exact exec_w_of_writeFault h he hsome b

/-- Settles O35: step 2 is the first check (`writeFault_of_not_writable`), and a write's index is never shadowed. -/
theorem writesThroughReadOnlyEntriesFault : Obligations.WritesThroughReadOnlyEntriesFault := by
  intro va index b s h he hindex hw
  subst hindex
  exact exec_w_of_writeFault h he (writeFault_of_not_writable hw) b

end Sys2Proof.Proofs

/-! SUPPORT. Proofs about the dispatcher (spec/43_dispatcher.md): who is served, which configurations are refused, an
access that reaches its place as one physical read or write, and each target of the two maps. -/

namespace Sys2Proof.Machine

open Sys2Proof.Safety

/-! ### Who is served -/

/-- An instruction is a write with flags, or its effect goes through `serve`. -/
theorem exec_eq_serve (i : Instr) (s : State) :
    exec i s = .refused .writeWithFlags ∨ ∃ act, exec i s = serve act s := by
  obtain ⟨fl, va, rfl⟩ | ⟨va, b, rfl⟩ | hr | ⟨b, va, index, vp, -, he⟩ := instr_cases i
  · exact .inr ⟨_, exec_readInstr fl va s⟩
  · exact .inr ⟨fun x => countAccess (busWrite va b x), rfl⟩
  · exact .inl (hr s)
  · exact .inr ⟨_, he s⟩

/-- Where the block serves nothing, every instruction meets the same stop; a write with flags is refused in any case. -/
theorem exec_of_stop {s : State} {o : Host.Outcome State Fault Refusal} (h : ∀ act, serve act s = o) (i : Instr) :
    exec i s = o ∨ exec i s = .refused .writeWithFlags := by
  obtain hr | ⟨act, he⟩ := exec_eq_serve i s
  · exact .inr hr
  · exact .inl (he.trans (h act))

theorem serving_of_exec {i : Instr} {s t : State} (h : exec i s = .next t) : Serving s := by
  obtain hr | ⟨act, he⟩ := exec_eq_serve i s
  · rw [hr] at h
    cases h
  · exact (serve_eq_next (he ▸ h)).1

/-- A step is served where an instruction is: the queue is no part of the condition (log entry 4). -/
theorem serving_of_step {s t : State} (h : step s = .next t) : Serving s := by
  match hp : s.pending with
  | [] => exact (serve_eq_next (step_nil hp ▸ h)).1
  | .host b :: rest =>
    have hrest : Serving { s with pending := rest } := (serve_eq_next (step_host hp ▸ h)).1
    exact hrest
  | .engine word :: rest =>
    have hrest : Serving { s with pending := rest } := by
      obtain ⟨i, -, hi⟩ | ⟨b, va, index, vp, -, hf⟩ := serveWord_cases (step_engine hp ▸ h)
      · exact serving_of_exec hi
      · exact (fetchedByte_cases b va index vp hf).1
    exact hrest

section Stops
variable {s : State}

theorem serve_of_invalid (h : configValid s.cfg = false) (act : State → State) :
    serve act s = .refused .invalidConfiguration := by
  simp [serve, h]

theorem serve_of_halted (hc : configValid s.cfg = true) (h : s.env.halted.isSome = true) (act : State → State) :
    serve act s = .fault .runHalted := by
  simp [serve, hc, h]

theorem serve_of_dumped (hc : configValid s.cfg = true) (hh : s.env.halted = none) (h : s.env.dump.isSome = true)
    (act : State → State) : serve act s = .fault .watchdogExpired := by
  simp [serve, hc, hh, h]

theorem not_serving_of_halted (h : s.env.halted.isSome = true) : ¬Serving s := by
  rintro ⟨-, hnone, -⟩
  simp [hnone] at h

theorem not_serving_of_dumped (h : s.env.dump.isSome = true) : ¬Serving s := by
  rintro ⟨-, -, hnone⟩
  simp [hnone] at h

end Stops

/-- The block still serves after an access that neither ends the run nor reaches the watchdog's limit. -/
theorem serving_countAccess {s : State} (h : Serving s) (hlimit : s.env.accesses + 1 < s.cfg.watchdogLimit) :
    Serving (countAccess s) := by
  obtain ⟨hc, hh, hd⟩ := h
  exact ⟨hc, hh, by simp [countAccess, hd, hlimit]⟩

/-! ### Configurations that are refused (spec/43_dispatcher.md R153) -/

theorem allApart_iff_pairwise (l : List AddressRange) :
    allApart l = true ↔ l.Pairwise (rangesApart · · = true) := by
  induction l with
  | nil => simp [allApart]
  | cons x rest ih => simp [allApart, ih]

/-- Two ranges that lie apart share no address. -/
theorem not_mem_both_of_rangesApart {x y : AddressRange} (h : rangesApart x y = true) {a : Nat}
    (hx : x.1 ≤ a ∧ a < x.1 + x.2) : ¬(y.1 ≤ a ∧ a < y.1 + y.2) := by
  simp only [rangesApart, Bool.or_eq_true, decide_eq_true_eq] at h
  omega

/-! ### An access that reaches its place -/

/-- The mode at the physical read: that of the checks of a translated read, and the one found otherwise. -/
def modeAtPlace (fl : AccessFlags) (va : Nat) (s : State) : Bool :=
  if s.ctl.enabled then modeAtCheck fl va s else s.ctl.supervisor

theorem modeAtPlace_flagsR (va : Nat) (s : State) : modeAtPlace flagsR va s = s.ctl.supervisor := by
  rw [modeAtPlace, modeAtCheck_flagsR, ite_self]

section Place
variable {va pa : Nat} {s : State}

/-- A read that reaches its place is the physical read there, and step 8 for a translated fetch. -/
theorem busRead_of_readPlace {fl : AccessFlags} (h : readPlace fl va s = some pa) :
    busRead fl va s =
      if s.ctl.enabled && fl.vpa then
        postFetch (memRead pa (s.setMode (modeAtPlace fl va s))).1 (reduceAddress s.cfg va) fl (usedIndex fl va s)
          (memRead pa (s.setMode (modeAtPlace fl va s))).2
      else
        (memRead pa (s.setMode (modeAtPlace fl va s))).2.answer
          (some (memRead pa (s.setMode (modeAtPlace fl va s))).1) none := by
  unfold readPlace at h
  unfold modeAtPlace
  cases he : s.ctl.enabled with
  | false =>
    rw [he] at h
    cases h
    exact busRead_of_disabled he fl va
  | true =>
    rw [he, if_pos rfl, Option.ite_none_right_eq_some] at h
    obtain ⟨hallowed, hpa⟩ := h
    cases hpa
    rw [busRead_of_readAllowed he hallowed]
    rfl

/-- The byte a read answers without a fault is the one its physical read returned. -/
theorem busRead_reply_data {fl : AccessFlags} (h : readPlace fl va s = some pa) {d : Byte}
    (hd : (busRead fl va s).reply = some ⟨some d, none⟩) :
    d = (memRead pa (s.setMode (modeAtPlace fl va s))).1 := by
  rw [busRead_of_readPlace h] at hd
  split at hd
  · obtain ⟨m, hp, -⟩ | ⟨-, -, hp⟩ := postFetch_cases (memRead pa (s.setMode (modeAtPlace fl va s))).1
      (reduceAddress s.cfg va) fl (usedIndex fl va s) (memRead pa (s.setMode (modeAtPlace fl va s))).2
    · rw [hp] at hd
      cases hd
      rfl
    · rw [hp] at hd
      cases hd
  · cases hd
    rfl

/-- A plain read that reaches its place is the physical read there. -/
theorem exec_r_of_readPlace (hs : Serving s) (h : readPlace flagsR va s = some pa) :
    exec (.r va) s = .next (countAccess ((memRead pa s).2.answer (some (memRead pa s).1) none)) := by
  have hexec : exec (.r va) s = .next (countAccess (busRead flagsR va s)) := exec_readInstr_next flagsR va hs
  have hvpa : ¬(s.ctl.enabled && flagsR.vpa) = true := by simp [flagsR]
  rw [hexec, busRead_of_readPlace h, if_neg hvpa, modeAtPlace_flagsR, setMode_self]

/-- A write that reaches its place is the physical write there. -/
theorem exec_w_of_writePlace (hs : Serving s) (h : writePlace va s = some pa) (b : Byte) :
    exec (.w va b) s = .next (countAccess ((memWrite pa b s).answer none none)) := by
  obtain ⟨pa', hpa, hbus⟩ | ⟨kind, -, hnone, -, -⟩ := busWrite_eq va b s
  · cases h.symm.trans hpa
    rw [exec_w_next va b hs, hbus]
  · cases h.symm.trans hnone

theorem readPlace_of_disabled (h : s.ctl.enabled = false) (fl : AccessFlags) (va : Nat) :
    readPlace fl va s = some (va % s.cfg.memSize) := by
  simp [readPlace, h, reduceAddress]

theorem writePlace_of_disabled (h : s.ctl.enabled = false) (va : Nat) :
    writePlace va s = some (va % s.cfg.memSize) := by
  simp [writePlace, h, reduceAddress]

end Place

/-! ### The physical read and write, by target -/

section Targets
variable {pa : Nat} {s : State}

theorem memRead_consoleOut (h : busTarget s.cfg pa = .consoleOut) : memRead pa s = (0x00, s) := by
  simp [memRead, h]

theorem memRead_consoleStatus (h : busTarget s.cfg pa = .consoleStatus ∨ busTarget s.cfg pa = .unpagedStatus) :
    memRead pa s = (if s.env.input = [] then 0x00 else 0x01, s) := by
  obtain h | h := h <;> cases hi : s.env.input <;> simp [memRead, h, consoleStatusByte, hi, boolByte]

theorem memRead_consoleIn (h : busTarget s.cfg pa = .consoleIn) : memRead pa s = consoleInRead s := by
  simp [memRead, h]

theorem memRead_free (h : busTarget s.cfg pa = .trace ∨ busTarget s.cfg pa = .unpagedOut ∨
    busTarget s.cfg pa = .unpagedExit) : memRead pa s = s.draw := by
  obtain h | h | h := h <;> simp [memRead, h]

theorem memRead_control {r : CtlReg} (h : busTarget s.cfg pa = .control r) :
    memRead pa s = (boolByte (ctlGet r s.ctl), s) := by
  simp [memRead, h]

theorem memRead_table {i : Nat} {high : Bool} (h : busTarget s.cfg pa = .table i high) :
    memRead pa s = (pteHalf high (s.pt.get i), s) := by
  simp [memRead, h]

theorem memRead_memory (h : busTarget s.cfg pa = .ram ∨ busTarget s.cfg pa = .rom) :
    memRead pa s = (s.mem.read pa, s) := by
  obtain h | h := h <;> simp [memRead, h]

theorem memWrite_output (h : busTarget s.cfg pa = .consoleOut ∨ busTarget s.cfg pa = .unpagedOut) (v : Byte) :
    memWrite pa v s = s.emit (.output v) := by
  obtain h | h := h <;> simp [memWrite, h]

theorem memWrite_trace (h : busTarget s.cfg pa = .trace) (v : Byte) : memWrite pa v s = s.emit (.trace v) := by
  simp [memWrite, h]

theorem memWrite_control {r : CtlReg} (h : busTarget s.cfg pa = .control r) (v : Byte) :
    memWrite pa v s = s.setCtl r (v.getLsbD 0) := by
  simp [memWrite, h, byteBool]

theorem memWrite_table {i : Nat} {high : Bool} (h : busTarget s.cfg pa = .table i high) (v : Byte) :
    memWrite pa v s = s.setPte i (pteSetHalf high (s.pt.get i) v) := by
  simp [memWrite, h]

theorem memWrite_ram (h : busTarget s.cfg pa = .ram) (v : Byte) : memWrite pa v s = s.setMem pa v := by
  simp [memWrite, h]

theorem memWrite_exit (h : busTarget s.cfg pa = .unpagedExit) (v : Byte) : memWrite pa v s = exitWrite v s := by
  simp [memWrite, h]

/-- The addresses whose writes have no effect (spec/43_dispatcher.md R145, R151, R161). -/
theorem memWrite_ignored (h : busTarget s.cfg pa = .consoleStatus ∨ busTarget s.cfg pa = .consoleIn ∨
    busTarget s.cfg pa = .rom ∨ busTarget s.cfg pa = .unpagedStatus) (v : Byte) : memWrite pa v s = s := by
  obtain h | h | h | h := h <;> simp [memWrite, h]

end Targets

/-! ### The devices of the paged profile, each at its own address (spec/20_memory.md R45) -/

section PagedDevices
variable {c : Config} (hc : configValid c = true) (hp : c.profile = .paged)
include hc hp

theorem busTarget_consoleOut : busTarget c c.consoleOut = .consoleOut :=
  busTarget_of_device hc hp (by simp [pagedWindows])

theorem busTarget_consoleStatus : busTarget c c.consoleStatus = .consoleStatus :=
  busTarget_of_device hc hp (by simp [pagedWindows])

theorem busTarget_consoleIn : busTarget c c.consoleIn = .consoleIn :=
  busTarget_of_device hc hp (by simp [pagedWindows])

theorem busTarget_trace : busTarget c c.trace = .trace :=
  busTarget_of_device hc hp (by simp [pagedWindows])

theorem busTarget_ctlAddress (r : CtlReg) : busTarget c (ctlAddress c r) = .control r := by
  cases r <;> exact busTarget_of_device hc hp (by simp [pagedWindows, ctlAddress])

end PagedDevices

/-! ### The control booleans -/

/-- A write changes a control boolean only where it reaches the boolean's own address. -/
theorem busWrite_ctlGet (va : Nat) (b : Byte) (s : State) (r : CtlReg) :
    ctlGet r (busWrite va b s).ctl = ctlGet r s.ctl ∨
      (writePlace va s = some (ctlAddress s.cfg r) ∧ ctlGet r (busWrite va b s).ctl = b.getLsbD 0) := by
  obtain ⟨pa, hpa, hw⟩ | ⟨kind, -, -, -, hw⟩ := busWrite_eq va b s <;> rw [hw]
  · rw [State.answer_ctl]
    obtain h | ⟨q, ht, h⟩ := memWrite_ctl pa b s <;> rw [h]
    · exact .inl rfl
    · by_cases hq : r = q
      · subst hq
        exact .inr ⟨hpa.trans (congrArg some (busTarget_control ht)), ctlGet_ctlSet_same r _ s.ctl⟩
      · exact .inl (ctlGet_ctlSet_other q r _ _ hq)
  · exact .inl rfl

/-- Setting the mode leaves the other control booleans. -/
theorem ctlGet_setMode {r : CtlReg} (hr : r ≠ .supervisor) (x : Bool) (s : State) :
    ctlGet r (s.setMode x).ctl = ctlGet r s.ctl := ctlGet_ctlSet_other .supervisor r x s.ctl hr

/-- A fetched byte changes no control boolean but the mode (spec/43_dispatcher.md R149). -/
theorem fetchedByte_ctlGet {b : Byte} {va index : Nat} {vp : Bool} {s t : State}
    (h : fetchedByte b va index vp s = .next t) {r : CtlReg} (hr : r ≠ .supervisor) :
    ctlGet r t.ctl = ctlGet r s.ctl := by
  obtain ⟨-, ⟨m, rfl, -⟩ | ⟨-, -, -, rfl⟩⟩ := fetchedByte_cases b va index vp h
  · exact ctlGet_setMode hr m s
  · rfl

/-- A fetched control register passes step 8: RTI's byte is neither of the two values (spec/43_dispatcher.md R148). -/
theorem postFetch_boolByte {s : State} (h0 : 0x00 ∉ s.cfg.privOpcodes) (h1 : 0x01 ∉ s.cfg.privOpcodes) (x : Bool)
    (va : Nat) (fl : AccessFlags) (i : Nat) :
    postFetch (boolByte x) va fl i s = s.answer (some (boolByte x)) none := by
  have hrti : boolByte x ≠ 0x40 := by cases x <;> decide
  have hallowed : boolByte x ∉ s.cfg.privOpcodes := by cases x <;> assumption
  apply postFetch_unchanged
  cases hs : s.ctl.supervisor with
  | true => exact .inl ⟨rfl, .inl hrti⟩
  | false => exact .inr ⟨rfl, hallowed⟩

/-! ### Memory outside RAM -/

/-- No instruction changes a byte of memory outside RAM (spec/43_dispatcher.md R151). -/
theorem exec_mem_read_of_not_ram {i : Instr} {s t : State} (w : s.mem.wf s.cfg.memSize = true)
    (ht : exec i s = .next t) {a : Nat} (ha : busTarget s.cfg a ≠ .ram) : t.mem.read a = s.mem.read a := by
  obtain ⟨fl, va, -, rfl⟩ | ⟨va, b, -, rfl⟩ | ⟨b, va, index, vp, -, hf⟩ := exec_cases ht
  · rw [countAccess_mem, busRead_mem]
  · rw [countAccess_mem]
    obtain ⟨pa, -, hw⟩ | ⟨kind, -, -, -, hw⟩ := busWrite_eq va b s <;> rw [hw]
    · exact memWrite_mem_read w pa b (.inr ha)
    · rfl
  · obtain ⟨-, hmem, -⟩ := fetchedByte_frame hf
    rw [hmem]

/-! ### The table window while the MMU is disabled -/

theorem pteSetHalf_low_high (e e' : Pte) : pteSetHalf true (pteSetHalf false e (pteLow e')) (pteHigh e') = e' := by
  simp [pteSetHalf]

/-- Entry `i` can be accessed through the window by untranslated requests, `n` times before the watchdog's limit. -/
def TableOpen (n i : Nat) (s : State) : Prop :=
  Serving s ∧ s.cfg.profile = .paged ∧ s.ctl.enabled = false ∧ i < s.cfg.nEntries ∧
    s.cfg.ptBase + 2 * i + 1 < s.cfg.memSize ∧ s.env.accesses + n < s.cfg.watchdogLimit

theorem TableOpen.after_countAccess {n i : Nat} {s : State} (h : TableOpen (n + 1) i s) :
    TableOpen n i (countAccess s) := by
  obtain ⟨hs, hp, hoff, hi, hin, hlimit⟩ := h
  exact ⟨serving_countAccess hs (by omega), hp, hoff, hi, hin, by rw [countAccess_accesses, countAccess_cfg]; omega⟩

theorem TableOpen.after_read {n i : Nat} {s : State} (h : TableOpen (n + 1) i s) (d : Option Byte) :
    TableOpen n i (countAccess (s.answer d none)) :=
  TableOpen.after_countAccess (s := s.answer d none) h

theorem TableOpen.after_write {n i : Nat} {s : State} (h : TableOpen (n + 1) i s) (e : Pte) :
    TableOpen n i (countAccess ((s.setPte i e).answer none none)) :=
  TableOpen.after_countAccess (s := (s.setPte i e).answer none none) h

section OpenTable
variable {n i : Nat} {s : State} (h : TableOpen n i s)
include h

/-- The window's address is the place of the access, and decodes to its byte of the entry. -/
theorem TableOpen.place (high : Bool) :
    (s.cfg.ptBase + 2 * i + high.toNat) % s.cfg.memSize = s.cfg.ptBase + 2 * i + high.toNat ∧
      busTarget s.cfg (s.cfg.ptBase + 2 * i + high.toNat) = .table i high := by
  obtain ⟨hs, hp, -, hi, hin, -⟩ := h
  have hbit := high.toNat_lt
  exact ⟨Nat.mod_eq_of_lt (by omega), busTarget_tablePlace hs.1 hp hi high⟩

theorem exec_w_tablePlace (high : Bool) (v : Byte) :
    exec (.w (s.cfg.ptBase + 2 * i + high.toNat) v) s =
      .next (countAccess ((s.setPte i (pteSetHalf high (s.pt.get i) v)).answer none none)) := by
  obtain ⟨hplace, htarget⟩ := h.place high
  obtain ⟨hs, -, hoff, -⟩ := h
  rw [exec_w_of_writePlace hs (writePlace_of_disabled hoff _), hplace, memWrite_table htarget]

theorem exec_r_tablePlace (high : Bool) :
    exec (.r (s.cfg.ptBase + 2 * i + high.toNat)) s =
      .next (countAccess (s.answer (some (pteHalf high (s.pt.get i))) none)) := by
  obtain ⟨hplace, htarget⟩ := h.place high
  obtain ⟨hs, -, hoff, -⟩ := h
  rw [exec_r_of_readPlace hs (readPlace_of_disabled hoff flagsR _), hplace, memRead_table htarget]

end OpenTable

theorem runInstrs_pair {i j : Instr} {s t u : State} (hi : exec i s = .next t) (hj : exec j t = .next u) :
    runInstrs [i, j] s = .next u := by
  simp [runInstrs, hi, hj]

/-- `WPTE` writes the low byte into the entry found and then completes it (spec/30_encoding.md R78). -/
theorem runInstrs_wpte {n i : Nat} {s : State} (h : TableOpen (n + 2) i s) (w : s.pt.wf s.cfg.nEntries = true)
    (e : Pte) :
    ∃ t, runInstrs (wpte s.cfg i e) s = .next t ∧
      t.pt = (s.pt.set i (pteSetHalf false (s.pt.get i) (pteLow e))).set i e ∧ t.mem = s.mem ∧ t.cfg = s.cfg ∧
      TableOpen n i t := by
  have hlow := exec_w_tablePlace h false (pteLow e)
  have hopen := h.after_write (pteSetHalf false (s.pt.get i) (pteLow e))
  have hhigh := exec_w_tablePlace hopen true (pteHigh e)
  have hentry : (s.pt.set i (pteSetHalf false (s.pt.get i) (pteLow e))).get i =
      pteSetHalf false (s.pt.get i) (pteLow e) := (PageTable.get_set w i _ i).trans (if_pos rfl)
  simp only [countAccess_pt, State.answer_pt, State.setPte_pt, hentry, pteSetHalf_low_high] at hhigh
  exact ⟨_, runInstrs_pair hlow hhigh, rfl, rfl, rfl, hopen.after_write e⟩

/-- `RPTE` reads the low byte and then the high byte, and leaves the table (spec/30_encoding.md R78). -/
theorem exec_rpte {n i : Nat} {s : State} (h : TableOpen (n + 2) i s) :
    ∃ u u', exec (.r (s.cfg.ptBase + 2 * i)) s = .next u ∧ u.reply = some ⟨some (pteLow (s.pt.get i)), none⟩ ∧
      exec (.r (s.cfg.ptBase + 2 * i + 1)) u = .next u' ∧ u'.reply = some ⟨some (pteHigh (s.pt.get i)), none⟩ ∧
      u'.pt = s.pt :=
  ⟨_, _, exec_r_tablePlace h false, rfl, exec_r_tablePlace (h.after_read _) true, rfl, rfl⟩

/-! ### The unpaged profile -/

theorem busTarget_of_unpaged {c : Config} (h : c.profile = .unpaged) (pa : Nat) :
    busTarget c pa = unpagedTarget c pa := by
  rw [busTarget, h]

theorem busTarget_uConsoleStatus {c : Config} (h : c.profile = .unpaged) :
    busTarget c c.uConsoleStatus = .unpagedStatus := by
  rw [busTarget_of_unpaged h, unpagedTarget, if_pos rfl]

section UnpagedMap
variable {c : Config} (hc : configValid c = true) (hp : c.profile = .unpaged)
include hc hp

/-- The three devices have three addresses (log entry 10). -/
theorem unpagedRanges_distinct :
    c.uConsoleOut ≠ c.uConsoleStatus ∧ c.uExit ≠ c.uConsoleStatus ∧ c.uExit ≠ c.uConsoleOut := by
  simp only [configValid, addressesValid, hp, Bool.and_eq_true] at hc
  obtain ⟨⟨⟨-, ⟨⟨-, hapart⟩, -⟩, -⟩, -⟩, -⟩ := hc
  simp only [allApart_iff_pairwise, unpagedRanges, rangesApart, List.pairwise_cons, List.mem_cons,
    List.not_mem_nil, or_false, forall_eq_or_imp, forall_eq, Bool.or_eq_true, decide_eq_true_eq] at hapart
  obtain ⟨⟨hso, hse⟩, hoe, -⟩ := hapart
  omega

theorem busTarget_uConsoleOut : busTarget c c.uConsoleOut = .unpagedOut := by
  obtain ⟨hos, -, -⟩ := unpagedRanges_distinct hc hp
  rw [busTarget_of_unpaged hp, unpagedTarget, if_neg hos, if_pos rfl]

theorem busTarget_uExit : busTarget c c.uExit = .unpagedExit := by
  obtain ⟨-, hes, heo⟩ := unpagedRanges_distinct hc hp
  rw [busTarget_of_unpaged hp, unpagedTarget, if_neg hes, if_neg heo, if_pos rfl]

end UnpagedMap

/-! ### The exit status (spec/43_dispatcher.md R162, D23) -/

theorem lastOutput_eq_none {l : List Event} (h : ∀ c, Event.output c ∉ l) : lastOutput l = none := by
  induction l with
  | nil => rfl
  | cons e rest ih =>
    simp only [List.mem_cons, not_or] at h
    have hrest := ih fun c => (h c).2
    cases e with
    | output c => exact absurd rfl (h c).1
    | trace | abort | exit => exact hrest

/-- The last output of a run is found past whatever came before it and the other events after it. -/
theorem lastOutput_of_last {b : Byte} {after : List Event} (h : ∀ c, Event.output c ∉ after) (before : List Event) :
    lastOutput (before ++ .output b :: after) = some b := by
  induction before with
  | nil => simp [lastOutput, lastOutput_eq_none h]
  | cons e rest ih => cases e <;> simp [lastOutput, ih]

theorem exitStatus_of_written {s : State} (h : s.cfg.exitSource = .written) (v : Byte) : exitStatus v s = (v, s) := by
  simp only [exitStatus, h]

theorem exitStatus_of_lastOut {b : Byte} {s : State} (h : s.cfg.exitSource = .lastOut)
    (hb : lastOutput s.env.events = some b) (v : Byte) : exitStatus v s = (b, s) := by
  simp only [exitStatus, h, hb]

theorem exitStatus_env (v : Byte) (s : State) : (exitStatus v s).2.env = s.env := by
  unfold exitStatus
  split
  · rfl
  · split <;> rfl

theorem exitWrite_events (v : Byte) (s : State) :
    (exitWrite v s).env.events = s.env.events ++ [.exit (exitStatus v s).1] := by
  rw [exitWrite, State.halt_events, State.emit_events, exitStatus_env]

end Sys2Proof.Machine

namespace Sys2Proof.Proofs

open Sys2Proof.Machine Sys2Proof.Safety

/-- Settles O9: a run that has ended is not served, whatever is presented (`exec_of_stop`, `serving_of_step`). -/
theorem anEndedRunServesNothing : Obligations.AnEndedRunServesNothing := by
  intro s hc
  refine ⟨fun hhalted => ⟨exec_of_stop (serve_of_halted hc hhalted), fun t ht => ?_⟩,
    fun hrunning hdumped => ⟨exec_of_stop (serve_of_dumped hc hrunning hdumped), fun t ht => ?_⟩⟩
  · exact not_serving_of_halted hhalted (serving_of_step ht)
  · exact not_serving_of_dumped hdumped (serving_of_step ht)

/-- Settles O10: of a configuration a model takes, the ranges are pairwise apart and below `DEVICE_LIMIT`
(`pagedRanges_valid`), so one that breaks either is not valid, and nothing is served. -/
theorem overlappingConfigurationsAreRefused : Obligations.OverlappingConfigurationsAreRefused := by
  intro s hp hbad
  have hinvalid : configValid s.cfg = false := by
    rw [← Bool.not_eq_true]
    intro hc
    obtain ⟨hbelow, hapart⟩ := pagedRanges_valid hc hp
    rw [← statedRanges_eq] at hbelow hapart
    obtain ⟨j, k, a, hj, hk, hjk, haj, hak⟩ | ⟨x, hx, hpast⟩ := hbad
    · have happart := List.pairwise_iff_getElem.1 ((allApart_iff_pairwise _).1 hapart) j k hj hk hjk
      exact not_mem_both_of_rangesApart happart haj hak
    · exact absurd (hbelow x hx) (by omega)
  refine ⟨exec_of_stop (serve_of_invalid hinvalid), fun t ht => ?_⟩
  obtain ⟨hc, -, -⟩ := serving_of_step ht
  rw [hinvalid] at hc
  cases hc

/-- Settles O15: the write is the physical write at the register's address; and of the instructions only such a write
changes a boolean that is not the mode (`busWrite_ctlGet`). -/
theorem onlyControlWritesChangeTheControlBooleans : Obligations.OnlyControlWritesChangeTheControlBooleans := by
  refine ⟨fun s va b r h hp hplace => ?_, fun i s t r hr ht hne => ?_⟩
  · rw [exec_w_of_writePlace h hplace, memWrite_control (busTarget_ctlAddress h.1 hp r)]
    rfl
  · obtain ⟨fl, va, -, rfl⟩ | ⟨va, b, rfl, rfl⟩ | ⟨b, va, index, vp, -, hf⟩ := exec_cases ht
    · exact absurd (busRead_ctlGet fl va s r hr) hne
    · exact ⟨va, b, rfl, (busWrite_ctlGet va b s r).resolve_left hne⟩
    · exact absurd (fetchedByte_ctlGet hf hr) hne

/-- Settles O47: the physical read finds the mode of steps 1 and 5 (`busRead_of_readPlace`), and step 8 lets 0x00 and
0x01 through where the configuration does not forbid them (`postFetch_boolByte`). -/
theorem controlRegisterReadsReturnTheBoolean : Obligations.ControlRegisterReadsReturnTheBoolean := by
  intro fl va s r h hp hplace hfetch
  refine ⟨modeAtPlace fl va s, rfl, ?_⟩
  have htarget := busTarget_ctlAddress h.1 hp r
  rw [exec_readInstr_next fl va h, busRead_of_readPlace hplace,
    memRead_control (s := s.setMode (modeAtPlace fl va s)) htarget]
  split
  · next hstep8 =>
    obtain ⟨h0, h1⟩ := hfetch (Bool.and_eq_true_iff.1 hstep8).2
    rw [postFetch_boolByte (s := s.setMode (modeAtPlace fl va s)) h0 h1]
    rfl
  · rfl

/-- Settles O48: entry `i` lies in the window as its low and its high byte (`busTarget_tablePlace`). -/
theorem tableWindowReadsAndWritesTheEntrysBytes : Obligations.TableWindowReadsAndWritesTheEntrysBytes := by
  intro va i v s h hp hi
  have hlow : busTarget s.cfg (s.cfg.ptBase + 2 * i) = .table i false := busTarget_tablePlace h.1 hp hi false
  have hhigh : busTarget s.cfg (s.cfg.ptBase + 2 * i + 1) = .table i true := busTarget_tablePlace h.1 hp hi true
  refine ⟨fun hplace => ?_, fun hplace => ?_, fun hplace => ?_, fun hplace => ?_⟩
  · rw [exec_w_of_writePlace h hplace, memWrite_table hlow]
    rfl
  · rw [exec_w_of_writePlace h hplace, memWrite_table hhigh]
    rfl
  · rw [exec_r_of_readPlace h hplace, memRead_table hlow]
    rfl
  · rw [exec_r_of_readPlace h hplace, memRead_table hhigh]
    rfl

/-- Settles O49: the two writes put the entry together (`pteSetHalf_low_high`), and the two reads take it apart again
(`pteOfBytes_high_low`). -/
theorem writtenEntriesReadBackExactly : Obligations.WrittenEntriesReadBackExactly := by
  rintro s i e ⟨-, -, hpt, -⟩ h hp hoff hi hin hlimit
  have hopen : TableOpen 4 i s := ⟨h, hp, hoff, hi, hin, hlimit⟩
  obtain ⟨t, hrun, htable, hmem, hcfg, hopen'⟩ := runInstrs_wpte hopen hpt e
  obtain ⟨u, u', hlow, hlo, hhigh, hhi, htable'⟩ := exec_rpte hopen'
  have hread (j : Nat) : t.pt.get j = if i = j then e else s.pt.get j := by
    rw [htable, PageTable.get_set (PageTable.wf_set _ hi hpt), PageTable.get_set hpt]
    split <;> rfl
  have hentry : t.pt.get i = e := (hread i).trans (if_pos rfl)
  rw [hcfg] at hlow hhigh
  rw [hentry] at hlo hhi
  exact ⟨t, u, _, _, pteLow e, pteHigh e, hrun, hentry, fun j hj => (hread j).trans (if_neg (Ne.symm hj)), hmem, rfl,
    hlow, hlo, u', hhigh, hhi, pteOfBytes_high_low e, htable'⟩

/-- Settles O50: the window decodes to ROM (`busTarget_romPlace`), where writes are ignored and memory is fixed
(`exec_mem_read_of_not_ram`). -/
theorem romReadsTheStoredByteAndIgnoresWrites : Obligations.RomReadsTheStoredByteAndIgnoresWrites := by
  intro va k v s h hp hk
  have hrom : busTarget s.cfg (s.cfg.romBase + k) = .rom := busTarget_romPlace h.1 hp hk
  refine ⟨fun hplace => ?_, fun hplace => ?_, ?_⟩
  · rw [exec_w_of_writePlace h hplace, memWrite_ignored (.inr (.inr (.inl hrom)))]
  · rw [exec_r_of_readPlace h hplace, memRead_memory (.inr hrom)]
  · rintro ⟨-, hmem, -, -⟩ i t ht
    exact exec_mem_read_of_not_ram hmem ht (by rw [hrom]; nofun)

/-- Settles O51: the write stores the byte, the block still serves, and a later read answers the byte of its physical
read (`busRead_reply_data`). -/
theorem ramReadsReturnTheLatestWrite : Obligations.RamReadsReturnTheLatestWrite := by
  intro s va va' pa pa' b hinv h hlimit hplace hram
  obtain ⟨-, hmem, -, -⟩ := hinv
  have hread (a : Nat) : (s.mem.write pa b).read a = if a = pa then b else s.mem.read a :=
    (Memory.read_write hmem pa b a).trans (if_congr eq_comm rfl rfl)
  have hnext : s.env.accesses + 1 < s.cfg.watchdogLimit := by omega
  have hserving : Serving (countAccess ((s.setMem pa b).answer none none)) :=
    serving_countAccess (s := (s.setMem pa b).answer none none) h hnext
  have hwrite := exec_w_of_writePlace h hplace b
  rw [memWrite_ram hram] at hwrite
  refine ⟨_, hwrite, (hread pa).trans (if_pos rfl), fun a ha => (hread a).trans (if_neg ha),
    fun fl hplace' htarget => ⟨_, exec_readInstr_next fl va' hserving, fun d hd => ?_⟩⟩
  have hbyte (m : Bool) := memRead_memory (s := (countAccess ((s.setMem pa b).answer none none)).setMode m) htarget
  rw [busRead_reply_data hplace' hd, hbyte]
  exact hread pa'

/-- Settles O53: the MMU is off, so the reduced address is the place, and the three devices are apart
(`unpagedRanges_distinct`). -/
theorem unpagedConsoleStatusAndOutput : Obligations.UnpagedConsoleStatusAndOutput := by
  rintro va v s ⟨-, -, -, hoff⟩ h hp
  have hr := readPlace_of_disabled (hoff hp) flagsR va
  have hw := writePlace_of_disabled (hoff hp) va
  have hstatus := busTarget_uConsoleStatus hp
  have hout := busTarget_uConsoleOut h.1 hp
  have hexit := busTarget_uExit h.1 hp
  refine ⟨fun hva => ?_, fun hva => ?_, fun hva => ?_⟩
  · rw [hva] at hr hw
    rw [exec_r_of_readPlace h hr, memRead_consoleStatus (.inr hstatus), exec_w_of_writePlace h hw,
      memWrite_ignored (.inr (.inr (.inr hstatus)))]
    exact ⟨rfl, rfl⟩
  · rw [hva] at hw
    rw [exec_w_of_writePlace h hw, memWrite_output (.inr hout)]
    rfl
  · have hfree : busTarget s.cfg (va % s.cfg.memSize) = .unpagedOut ∨
        busTarget s.cfg (va % s.cfg.memSize) = .unpagedExit := by
      obtain hva | hva := hva <;> rw [hva]
      · exact .inl hout
      · exact .inr hexit
    rw [exec_r_of_readPlace h hr, memRead_free (.inr hfree)]
    rfl

/-- Settles O54: the write is `exitWrite`, which sets the status, so that the block serves nothing afterwards; under
`last_out` the status is that of `lastOutput_of_last`. -/
theorem unpagedExitWritesEndTheRun : Obligations.UnpagedExitWritesEndTheRun := by
  rintro va v s ⟨-, -, -, hoff⟩ h hp hva
  have hw := writePlace_of_disabled (hoff hp) va
  rw [hva] at hw
  have hexec := exec_w_of_writePlace h hw v
  rw [memWrite_exit (busTarget_uExit h.1 hp)] at hexec
  refine ⟨_, (exitStatus v s).1, hexec, rfl, ?events, fun hwritten => ?written,
    fun b before after hlast hevents hafter => ?lastOut, exitWrite_mem v s, fun i u hu => ?ended⟩
  case events => rw [countAccess_events, State.answer_events, exitWrite_events]
  case written => rw [exitStatus_of_written hwritten]
  case lastOut => rw [exitStatus_of_lastOut hlast (hevents ▸ lastOutput_of_last hafter before)]
  case ended => exact not_serving_of_halted rfl (serving_of_exec hu)

/-- Settles O42: the place of either access decodes to console output (`busTarget_consoleOut`). -/
theorem consoleOutputEmitsTheByte : Obligations.ConsoleOutputEmitsTheByte := by
  intro va v s h hp
  have htarget := busTarget_consoleOut h.1 hp
  refine ⟨fun hplace => ?_, fun hplace => ?_⟩
  · rw [exec_w_of_writePlace h hplace, memWrite_output (.inl htarget)]
    rfl
  · rw [exec_r_of_readPlace h hplace, memRead_consoleOut htarget]

/-- Settles O43: the physical read at console status (`memRead_consoleStatus`), which leaves the state. -/
theorem consoleStatusTellsWhetherInputIsPending : Obligations.ConsoleStatusTellsWhetherInputIsPending := by
  intro va s h hp hplace
  rw [exec_r_of_readPlace h hplace, memRead_consoleStatus (.inl (busTarget_consoleStatus h.1 hp))]

/-- Settles O44: the two cases of `consoleInRead`. -/
theorem consoleInputTakesTheNextByte : Obligations.ConsoleInputTakesTheNextByte := by
  intro va s h hp hplace
  rw [exec_r_of_readPlace h hplace, memRead_consoleIn (busTarget_consoleIn h.1 hp)]
  refine ⟨fun hnone => ?_, fun b rest hsome => ?_⟩
  · simp [consoleInRead, hnone]
  · simp only [consoleInRead, hsome]
    rfl

/-- Settles O45: both addresses are among those whose writes are ignored. -/
theorem writesToReadOnlyConsoleAddressesDoNothing : Obligations.WritesToReadOnlyConsoleAddressesDoNothing := by
  intro va v s h hp hplace
  obtain hplace | hplace := hplace
  · rw [exec_w_of_writePlace h hplace, memWrite_ignored (.inl (busTarget_consoleStatus h.1 hp))]
  · rw [exec_w_of_writePlace h hplace, memWrite_ignored (.inr (.inl (busTarget_consoleIn h.1 hp)))]

/-- Settles O46: a read of the trace address is a draw (`memRead_free`). -/
theorem traceWritesAreForwardedAndTraceReadsAreFree : Obligations.TraceWritesAreForwardedAndTraceReadsAreFree := by
  intro va v s h hp
  have htarget := busTarget_trace h.1 hp
  refine ⟨fun hplace => ?_, fun hplace => ?_⟩
  · rw [exec_w_of_writePlace h hplace, memWrite_trace htarget]
    rfl
  · rw [exec_r_of_readPlace h hplace, memRead_free (.inl htarget)]
    rfl

/-- Settles O52: the three addresses are distinct (`unpagedRanges_distinct`), and the decode looks at nothing else. -/
theorem unpagedMapHasThreeDevicesAndRam : Obligations.UnpagedMapHasThreeDevicesAndRam := by
  intro c hc hp
  refine ⟨busTarget_uConsoleStatus hp, busTarget_uConsoleOut hc hp, busTarget_uExit hc hp, fun pa hs ho he => ?_⟩
  rw [busTarget_of_unpaged hp, unpagedTarget, if_neg hs, if_neg ho, if_neg he]

end Sys2Proof.Proofs

/-! SUPPORT. Proofs about exceptions and the mode (spec/60_exceptions.md): what ends an access and what it reports, how
the mode changes, the isolation of user code, the first fault of a run, and the watchdog. -/

namespace Sys2Proof.Machine

open Sys2Proof.Safety

/-! ### The mode (spec/60_exceptions.md R184) -/

/-- Control booleans are the same when their four registers are. -/
theorem ctl_ext {c c' : Ctl} (h : ∀ r, ctlGet r c = ctlGet r c') : c = c' := by
  cases c
  cases c'
  exact (Ctl.mk.injEq ..).mpr ⟨h .enabled, h .supervisor, h .shadow, h .rtiToUser⟩

/-- Steps 1 and 5 in one: forced by `VP`, and dropped by a fetch through a present user entry. -/
theorem readMode_eq (fl : AccessFlags) (va : Nat) (s : State) :
    readMode fl va s = ((fl.vp || s.ctl.supervisor) &&
      !(ptePresent (usedEntry fl va s) && fl.vpa && pteUser (usedEntry fl va s))) := by
  unfold readMode modeAtCheck
  cases ptePresent (usedEntry fl va s) <;> simp

theorem busRead_ctl_of_disabled {s : State} (h : s.ctl.enabled = false) (fl : AccessFlags) (va : Nat) :
    (busRead fl va s).ctl = s.ctl := by
  rw [busRead_of_disabled h, State.answer_ctl, memRead_ctl]

/-- A read raises the mode by step 1 only, so it is a translated vector pull. -/
theorem vp_of_busRead_raises_mode {fl : AccessFlags} {va : Nat} {s : State} (hs : s.ctl.supervisor = false)
    (ht : (busRead fl va s).ctl.supervisor = true) : s.ctl.enabled = true ∧ fl.vp = true := by
  cases he : s.ctl.enabled with
  | false =>
    rw [busRead_ctl_of_disabled he, hs] at ht
    cases ht
  | true =>
    have hmode : readMode fl va s = true :=
      (busRead_supervisor he fl va).elim (fun h => h.symm.trans ht) And.right
    rw [readMode_eq, Bool.and_eq_true, hs, Bool.or_false] at hmode
    exact ⟨rfl, hmode.1⟩

/-- Step 8 drops the mode only for RTI's byte, with `rti_to_user` set. -/
theorem rti_of_postFetch_drops_mode {b : Byte} {va : Nat} {fl : AccessFlags} {i : Nat} {s : State}
    (hs : s.ctl.supervisor = true) (ht : (postFetch b va fl i s).ctl.supervisor = false) :
    b = rtiOpcode ∧ s.ctl.rtiToUser = true := by
  obtain ⟨m, h, rfl | ⟨-, -, hb, hr⟩⟩ | ⟨huser, -, -⟩ := postFetch_cases b va fl i s
  · rw [h, setMode_self, State.answer_ctl, hs] at ht
    cases ht
  · exact ⟨hb, hr⟩
  · rw [hs] at huser
    cases huser

/-- A read that drops the mode is a translated fetch, and drops it by step 5 or by step 8. -/
theorem fetch_of_busRead_drops_mode {fl : AccessFlags} {va : Nat} {s : State} (hs : s.ctl.supervisor = true)
    (ht : (busRead fl va s).ctl.supervisor = false) :
    s.ctl.enabled = true ∧ fl.vpa = true ∧
      ((ptePresent (usedEntry fl va s) = true ∧ pteUser (usedEntry fl va s) = true) ∨
        (s.ctl.rtiToUser = true ∧ readAllowed fl va s = true ∧
          (memRead (readAddress fl va s) (s.setMode (modeAtCheck fl va s))).1 = rtiOpcode)) := by
  cases he : s.ctl.enabled with
  | false =>
    rw [busRead_ctl_of_disabled he, hs] at ht
    cases ht
  | true =>
    refine ⟨rfl, ?_⟩
    cases hmode : readMode fl va s with
    | false =>
      have hdemoted : (ptePresent (usedEntry fl va s) = true ∧ fl.vpa = true) ∧ pteUser (usedEntry fl va s) = true := by
        simpa [readMode_eq, hs] using hmode
      obtain ⟨⟨hpresent, hvpa⟩, huser⟩ := hdemoted
      exact ⟨hvpa, .inl ⟨hpresent, huser⟩⟩
    | true =>
      have hvpa : fl.vpa = true := ((busRead_supervisor he fl va).resolve_left (by rw [ht, hmode]; nofun)).1
      cases hallowed : readAllowed fl va s with
      | false =>
        rw [busRead_of_not_readAllowed he hallowed, hmode] at ht
        cases ht
      | true =>
        rw [readMode_of_present (readAllowed_iff.1 hallowed).1] at hmode
        rw [busRead_of_readAllowed he hallowed, finishRead, if_pos hvpa] at ht
        obtain ⟨hb, hr⟩ := rti_of_postFetch_drops_mode (by rw [memRead_ctl]; exact hmode) ht
        rw [memRead_ctl] at hr
        exact ⟨hvpa, .inr ⟨hr, rfl, hb⟩⟩

/-- A fetched byte changes the mode only as RTI's byte, from supervisor to user mode. -/
theorem fetchedByte_ctl_cases {b : Byte} {va index : Nat} {vp : Bool} {s t : State}
    (h : fetchedByte b va index vp s = .next t) :
    t.ctl = s.ctl ∨ (s.ctl.enabled = true ∧ s.ctl.supervisor = true ∧ t.ctl.supervisor = false ∧ b = rtiOpcode ∧
      s.ctl.rtiToUser = true) := by
  obtain ⟨-, ⟨m, rfl, rfl | ⟨rfl, he, hs, hb, hr⟩⟩ | ⟨-, -, -, rfl⟩⟩ := fetchedByte_cases b va index vp h
  · exact .inl rfl
  · exact .inr ⟨he, hs, rfl, hb, hr⟩
  · exact .inl rfl

/-- A write changes the mode only at the mode's own register, to bit 0 of its byte. -/
theorem writePlace_of_busWrite_changes_mode {va : Nat} {b : Byte} {s : State}
    (h : (busWrite va b s).ctl.supervisor ≠ s.ctl.supervisor) :
    writePlace va s = some s.cfg.ctlSupervisor ∧ (busWrite va b s).ctl.supervisor = b.getLsbD 0 :=
  (busWrite_ctlGet va b s .supervisor).resolve_left h

/-- A fetched byte without a row changes no mode: RTI's byte has one. -/
theorem fetchedByte_noRow_ctl {word : BusWord} {b : Byte} {va index : Nat} {vp : Bool} {s t : State}
    (hd : decode word = .error (.noRow b va index vp)) (h : fetchedByte b va index vp s = .next t) : t.ctl = s.ctl := by
  obtain hkept | ⟨-, -, -, rfl, -⟩ := fetchedByte_ctl_cases h
  · exact hkept
  · exact absurd (List.mem_cons_self ..) (notMem_fetchedRows_of_decode hd (.rtiByte va index vp))

/-! ### What an access reports (spec/60_exceptions.md R171, R173, R175) -/

/-- A read answers a byte, and without a fault or with the one that it appends to the events. -/
theorem busRead_answers (fl : AccessFlags) (va : Nat) (s : State) :
    ∃ d, ((busRead fl va s).reply = some ⟨some d, none⟩ ∧ (busRead fl va s).env.events = s.env.events) ∨
      (s.ctl.enabled = true ∧ ∃ r, (busRead fl va s).reply = some ⟨some d, some r⟩ ∧
        (busRead fl va s).env.events = s.env.events ++ [.abort r] ∧ r.va = reduceAddress s.cfg va ∧ r.flags = fl) := by
  obtain ⟨m, d, x, hx, h⟩ := busRead_shape fl va s
  have hevents : x.env.events = s.env.events := by
    obtain rfl | ⟨m', pa, -, rfl⟩ := hx <;> simp
  refine ⟨d, ?_⟩
  obtain h | ⟨he, k, i, h⟩ := h <;> rw [h]
  · exact .inl ⟨rfl, hevents⟩
  · exact .inr ⟨he, _, rfl, by simp [hevents], rfl, rfl⟩

/-- An instruction whose answer names a fault has appended just that fault's `Abort`. -/
theorem exec_events_of_fault {i : Instr} {s t : State} {d : Option Byte} {r : FaultRecord} (h : exec i s = .next t)
    (hr : t.reply = some ⟨d, some r⟩) : t.env.events = s.env.events ++ [.abort r] := by
  obtain ⟨fl, va, -, rfl⟩ | ⟨va, b, -, rfl⟩ | ⟨b, va, index, vp, -, hf⟩ := exec_cases h
  · rw [countAccess_reply] at hr
    obtain ⟨d', ⟨hreply, -⟩ | ⟨-, r', hreply, hevents, -, -⟩⟩ := busRead_answers fl va s
    · cases hreply.symm.trans hr
    · cases hreply.symm.trans hr
      exact hevents
  · rw [countAccess_reply] at hr
    obtain ⟨pa, -, hbus⟩ | ⟨kind, -, -, -, hbus⟩ := busWrite_eq va b s <;> rw [hbus] at hr
    · cases hr
    · cases hr
      rw [countAccess_events, hbus]
      rfl
  · obtain ⟨-, ⟨m, rfl, -⟩ | ⟨-, -, -, rfl⟩⟩ := fetchedByte_cases b va index vp hf
    · cases hr
    · cases hr
      rfl

/-! ### What a step leaves of the queue, and what a run keeps -/

theorem fetchedByte_pending {b : Byte} {va index : Nat} {vp : Bool} {s t : State}
    (h : fetchedByte b va index vp s = .next t) : t.pending = s.pending := by
  obtain ⟨-, ⟨m, rfl, -⟩ | ⟨-, -, -, rfl⟩⟩ := fetchedByte_cases b va index vp h <;> rfl

theorem exec_pending {i : Instr} {s t : State} (h : exec i s = .next t) : t.pending = s.pending := by
  obtain ⟨fl, va, -, rfl⟩ | ⟨va, b, -, rfl⟩ | ⟨b, va, index, vp, -, hf⟩ := exec_cases h
  · rw [countAccess_pending, busRead_pending]
  · rw [countAccess_pending, busWrite_pending]
  · exact fetchedByte_pending hf

/-- A step takes the head of the queue, where there is one (log entry 4). -/
theorem step_pending {s t : State} (h : step s = .next t) : t.pending = s.pending.tail := by
  obtain ⟨hp, rfl⟩ | ⟨word, rest, hp, hw⟩ | ⟨b, rest, hp, rfl⟩ := step_cases h
  · rw [hp, List.tail_nil]
  · rw [hp, List.tail_cons]
    obtain ⟨i, -, hi⟩ | ⟨b, va, index, vp, -, hf⟩ := serveWord_cases hw
    · exact exec_pending hi
    · exact fetchedByte_pending hf
  · rw [hp, List.tail_cons]
    rfl

/-- A run of one step more is a step and then the run. -/
theorem run_succ_eq_next {M : Host.Core} {n : Nat} {s t : M.State} (h : M.run (n + 1) s = .next t) :
    ∃ u, M.step s = .next u ∧ M.run n u = .next t := by
  unfold Host.Core.run at h
  split at h
  · next u hu => exact ⟨u, hu, h⟩
  · cases h
  · cases h

/-- What every step keeps, a run keeps. -/
theorem run_keeps {M : Host.Core} {P : M.State → Prop} (hstep : ∀ {s t}, P s → M.step s = .next t → P t) {n : Nat}
    {s t : M.State} (hs : P s) (h : M.run n s = .next t) : P t := by
  induction n generalizing s with
  | zero =>
    cases h
    exact hs
  | succ n ih =>
    obtain ⟨u, hu, hrest⟩ := run_succ_eq_next h
    exact ih (hstep hs hu) hrest

/-! ### The isolation of user code (spec/60_exceptions.md R185) -/

/-- No entry with `user = 1` maps a control register or a byte of the table window. -/
def UserPagesApart (c : Config) (t : PageTable) : Prop :=
  ∀ index off, index < c.nEntries → off < pageSize c → pteUser (t.get index) = true →
    ∀ r, physicalAddress c (t.get index) off ≠ ctlAddress c r ∧
      ¬(c.ptBase ≤ physicalAddress c (t.get index) off ∧ physicalAddress c (t.get index) off < c.ptBase + tableSize c)

/-- The page table, the control booleans and the configuration of the two states are the same. -/
def SameTranslation (s t : State) : Prop := t.pt = s.pt ∧ t.ctl = s.ctl ∧ t.cfg = s.cfg

/-- User code runs, with no page onto what translates it and no vector pull among the requests to come. -/
structure Confined (s : State) : Prop where
  valid : configValid s.cfg = true
  enabled : s.ctl.enabled = true
  user : s.ctl.supervisor = false
  apart : UserPagesApart s.cfg s.pt
  noVectorPull : ∀ word, .engine word ∈ s.pending → ∀ fl va, decode word = .ok (readInstr fl va) → fl.vp = false

theorem SameTranslation.trans {s t u : State} (h : SameTranslation s t) (h' : SameTranslation t u) :
    SameTranslation s u := by
  obtain ⟨hp, hctl, hc⟩ := h
  obtain ⟨hp', hctl', hc'⟩ := h'
  exact ⟨hp'.trans hp, hctl'.trans hctl, hc'.trans hc⟩

/-- Confinement looks at the translation and at the queue, of which it may lose requests. -/
theorem Confined.congr {s t : State} (h : Confined s) (hst : SameTranslation s t)
    (hq : ∀ x ∈ t.pending, x ∈ s.pending) : Confined t := by
  obtain ⟨hp, hctl, hc⟩ := hst
  obtain ⟨hvalid, henabled, huser, hapart, hno⟩ := h
  exact ⟨hc ▸ hvalid, hctl ▸ henabled, hctl ▸ huser, by rwa [hc, hp], fun word hw => hno word (hq _ hw)⟩

/-- In user mode a read that is no vector pull changes no control boolean. -/
theorem busRead_ctl_of_user {fl : AccessFlags} {s : State} (hs : s.ctl.supervisor = false) (hvp : fl.vp = false)
    (va : Nat) : (busRead fl va s).ctl = s.ctl := by
  apply ctl_ext
  intro r
  by_cases hr : r = .supervisor
  · subst hr
    have hmode : (busRead fl va s).ctl.supervisor = false := by
      rw [← Bool.not_eq_true]
      intro ht
      obtain ⟨-, hpull⟩ := vp_of_busRead_raises_mode hs ht
      rw [hvp] at hpull
      cases hpull
    exact hmode.trans hs.symm
  · exact busRead_ctlGet fl va s r hr

/-- In user mode a translated write reaches its place through a user entry (spec/42_translate_write.md R133). -/
theorem pteUser_of_user_writePlace {va pa : Nat} {s : State} (he : s.ctl.enabled = true)
    (hs : s.ctl.supervisor = false) (hplace : writePlace va s = some pa) :
    pteUser (s.pt.get (pageIndex s.cfg (reduceAddress s.cfg va))) = true ∧
      pa = writeAddress (reduceAddress s.cfg va) s := by
  rw [writePlace, if_pos he, Option.ite_none_right_eq_some, Option.some.injEq] at hplace
  obtain ⟨hpass, hpa⟩ := hplace
  refine ⟨?_, hpa.symm⟩
  rw [← Bool.not_eq_false]
  intro hu
  cases hw : pteWritable (s.pt.get (pageIndex s.cfg (reduceAddress s.cfg va))) with
  | false => cases (writeFault_of_not_writable hw).symm.trans hpass
  | true => cases (writeFault_of_user_mode hw hs hu).symm.trans hpass

/-- The place of a confined write is neither a control register nor in the table window. -/
theorem Confined.busTarget_writePlace {s : State} (h : Confined s) {va pa : Nat} (hplace : writePlace va s = some pa) :
    (∀ r, busTarget s.cfg pa ≠ .control r) ∧ ∀ i high, busTarget s.cfg pa ≠ .table i high := by
  obtain ⟨huser, rfl⟩ := pteUser_of_user_writePlace h.enabled h.user hplace
  have hoff := pageOffset_lt h.valid (reduceAddress s.cfg va)
  have hapart := h.apart _ _ (pageIndex_lt s.cfg (reduceAddress s.cfg va)) hoff huser
  refine ⟨fun r ht => (hapart r).1 (busTarget_control ht), fun i high ht => (hapart .enabled).2 ?_⟩
  obtain ⟨-, hlow, hhigh, -⟩ := busTarget_table ht
  exact ⟨hlow, hhigh⟩

theorem Confined.sameTranslation_busWrite {s : State} (h : Confined s) (va : Nat) (b : Byte) :
    SameTranslation s (busWrite va b s) := by
  obtain ⟨pa, hpa, hw⟩ | ⟨kind, -, -, -, hw⟩ := busWrite_eq va b s <;> rw [hw]
  · obtain ⟨hctl, htable⟩ := h.busTarget_writePlace hpa
    exact ⟨(memWrite_pt pa b s).resolve_right fun ⟨i, high, ht, _⟩ => htable i high ht,
      (memWrite_ctl pa b s).resolve_right fun ⟨r, ht, _⟩ => hctl r ht, memWrite_cfg pa b s⟩
  · exact ⟨rfl, rfl, rfl⟩

theorem Confined.sameTranslation_fetchedByte {s t : State} (h : Confined s) {b : Byte} {va index : Nat} {vp : Bool}
    (ht : fetchedByte b va index vp s = .next t) : SameTranslation s t := by
  obtain ⟨hc, -, hp, -⟩ := fetchedByte_frame ht
  refine ⟨hp, (fetchedByte_ctl_cases ht).resolve_right ?_, hc⟩
  rintro ⟨-, hs, -⟩
  rw [h.user] at hs
  cases hs

theorem Confined.sameTranslation_exec {s t : State} (h : Confined s) {i : Instr}
    (hi : ∀ fl va, i = readInstr fl va → fl.vp = false) (ht : exec i s = .next t) : SameTranslation s t := by
  obtain ⟨fl, va, hread, rfl⟩ | ⟨va, b, -, rfl⟩ | ⟨b, va, index, vp, -, hf⟩ := exec_cases ht
  · exact ⟨busRead_pt fl va s, busRead_ctl_of_user h.user (hi fl va hread) va, busRead_cfg fl va s⟩
  · exact h.sameTranslation_busWrite va b
  · exact h.sameTranslation_fetchedByte hf

/-- A step of user code leaves the translation, whatever the host does. -/
theorem Confined.sameTranslation_step {s t : State} (h : Confined s) (ht : step s = .next t) : SameTranslation s t := by
  obtain ⟨-, rfl⟩ | ⟨word, rest, hp, hw⟩ | ⟨b, rest, -, rfl⟩ := step_cases ht
  · exact ⟨rfl, rfl, rfl⟩
  · have hrest : Confined { s with pending := rest } :=
      h.congr ⟨rfl, rfl, rfl⟩ fun x hx => hp ▸ List.mem_cons_of_mem _ hx
    obtain ⟨i, hd, hi⟩ | ⟨b, va, index, vp, -, hf⟩ := serveWord_cases hw
    · have hmem : .engine word ∈ s.pending := hp ▸ List.mem_cons_self ..
      exact hrest.sameTranslation_exec (fun fl va hread => h.noVectorPull word hmem fl va (hread ▸ hd)) hi
    · exact hrest.sameTranslation_fetchedByte hf
  · exact ⟨rfl, rfl, rfl⟩

theorem Confined.after_step {s t : State} (h : Confined s) (ht : step s = .next t) : Confined t :=
  h.congr (h.sameTranslation_step ht) fun _ hx => List.mem_of_mem_tail (step_pending ht ▸ hx)

/-! ### The first fault of a run (spec/60_exceptions.md R176) -/

/-- Past events without an `Abort` the first fault is the next one. -/
theorem firstAbort_append_abort {l : List Event} (h : firstAbort l = none) (r : FaultRecord) :
    firstAbort (l ++ [.abort r]) = some r := by
  induction l with
  | nil => rfl
  | cons e rest ih =>
    cases e with
    | abort => cases h
    | output | trace | exit => exact ih h

theorem systemStep_of_safe {s : State} (h : Safe s) : systemStep s = step s := by
  unfold Safe at h
  simp only [systemStep, h]

theorem systemStep_of_firstAbort {s : State} {r : FaultRecord} (h : firstAbort s.env.events = some r) :
    systemStep s = .fault (.aborted r) := by
  simp only [systemStep, h]

/-! ### The watchdog (spec/60_exceptions.md R190) -/

theorem dumpBytes_length (m : Memory) (base length : Nat) : (dumpBytes m base length).length = length := by
  induction length generalizing base with
  | zero => rfl
  | succ n ih => rw [dumpBytes, List.length_cons, ih]

/-- Byte `k` of the dump is the `k`-th of the window, read raw (log entry 14). -/
theorem dumpBytes_getElem? (m : Memory) {base length k : Nat} (hk : k < length) :
    (dumpBytes m base length)[k]? = some (m.read (base + k)) := by
  induction length generalizing base k with
  | zero => cases hk
  | succ n ih =>
    cases k with
    | zero => rfl
    | succ k =>
      rw [dumpBytes, List.getElem?_cons_succ, ih (Nat.lt_of_succ_lt_succ hk), Nat.add_right_comm, Nat.add_assoc]

@[simp] theorem busRead_accesses (fl : AccessFlags) (va : Nat) (s : State) :
    (busRead fl va s).env.accesses = s.env.accesses := by
  obtain ⟨m, d, x, rfl | ⟨m', pa, -, rfl⟩, h | ⟨-, k, i, h⟩⟩ := busRead_shape fl va s <;> simp [h]

@[simp] theorem busRead_dump (fl : AccessFlags) (va : Nat) (s : State) :
    (busRead fl va s).env.dump = s.env.dump := by
  obtain ⟨m, d, x, rfl | ⟨m', pa, -, rfl⟩, h | ⟨-, k, i, h⟩⟩ := busRead_shape fl va s <;> simp [h]

@[simp] theorem busWrite_accesses (va : Nat) (b : Byte) (s : State) :
    (busWrite va b s).env.accesses = s.env.accesses := by
  obtain ⟨pa, -, h⟩ | ⟨k, -, -, -, h⟩ := busWrite_eq va b s <;> simp [h]

@[simp] theorem busWrite_dump (va : Nat) (b : Byte) (s : State) : (busWrite va b s).env.dump = s.env.dump := by
  obtain ⟨pa, -, h⟩ | ⟨k, -, -, -, h⟩ := busWrite_eq va b s <;> simp [h]

/-- A read or a write is counted after an act that leaves the configuration and the watchdog as they were. -/
theorem exec_counts_access {i : Instr} {s t : State} (hi : (∃ fl va, i = readInstr fl va) ∨ ∃ va b, i = .w va b)
    (h : exec i s = .next t) :
    ∃ x, t = countAccess x ∧ x.cfg = s.cfg ∧ x.env.accesses = s.env.accesses ∧ x.env.dump = s.env.dump := by
  obtain ⟨fl, va, rfl⟩ | ⟨va, b, rfl⟩ := hi
  · rw [exec_readInstr] at h
    exact ⟨_, (access_eq_next h).2, busRead_cfg fl va s, busRead_accesses fl va s, busRead_dump fl va s⟩
  · exact ⟨_, (access_eq_next h).2, busWrite_cfg va b s, busWrite_accesses va b s, busWrite_dump va b s⟩

/-- Below the limit the count is all that changes. -/
theorem countAccess_dump_of_lt {s : State} (h : (countAccess s).env.accesses < s.cfg.watchdogLimit) :
    (countAccess s).env.dump = s.env.dump := if_neg fun hlimit => absurd h (Nat.not_lt.2 hlimit.2)

/-- At the limit the window is dumped, unless the access has ended the run itself (log entry 11). -/
theorem countAccess_dump_of_le {s : State} (h : s.cfg.watchdogLimit ≤ (countAccess s).env.accesses)
    (hrunning : s.env.halted = none) :
    (countAccess s).env.dump = some (dumpBytes s.mem s.cfg.diagBase s.cfg.diagLength) := if_pos ⟨hrunning, h⟩

end Sys2Proof.Machine

namespace Sys2Proof.Proofs

open Sys2Proof.Machine Sys2Proof.Safety

/-- Settles O19: confinement is kept by every step, and a confined step leaves the translation
(`Confined.sameTranslation_step`), so the run leaves it too (`run_keeps`). -/
theorem userCodeCannotChangeTranslationOrMode : Obligations.UserCodeCannotChangeTranslationOrMode := by
  rintro s t n ⟨hvalid, -⟩ he hs hapart hno hrun
  have hconfined : Confined s := ⟨hvalid, he, hs, hapart, hno⟩
  have hkept : Confined t ∧ SameTranslation s t :=
    run_keeps (M := core) (P := fun u => Confined u ∧ SameTranslation s u)
      (fun ⟨hu, hsu⟩ hstep => ⟨hu.after_step hstep, hsu.trans (hu.sameTranslation_step hstep)⟩)
      ⟨hconfined, rfl, rfl, rfl⟩ hrun
  exact hkept.2

/-- Settles O14: of the instructions, a read raises the mode by step 1 and drops it by step 5 or step 8, a write sets it
at its register, and a fetched byte drops it as RTI's. -/
theorem modeChangesOnlyInTheListedWays : Obligations.ModeChangesOnlyInTheListedWays := by
  refine ⟨rfl, fun i s t ht => ⟨fun hs htop => ?raises, fun hs hdown => ?drops⟩, fun s t hstep hne => ?steps⟩
  case raises =>
    obtain ⟨fl, va, rfl, rfl⟩ | ⟨va, b, rfl, rfl⟩ | ⟨b, va, index, vp, -, hf⟩ := exec_cases ht
    · obtain ⟨he, hvp⟩ := vp_of_busRead_raises_mode hs htop
      exact .inl ⟨he, fl, va, hvp, rfl⟩
    · rw [countAccess_ctl] at htop
      obtain ⟨hplace, hbit⟩ := writePlace_of_busWrite_changes_mode (by rw [htop, hs]; nofun)
      exact .inr ⟨va, b, rfl, hplace, hbit.symm.trans htop⟩
    · obtain hkept | ⟨-, hs', -⟩ := fetchedByte_ctl_cases hf
      · rw [hkept, hs] at htop
        cases htop
      · rw [hs] at hs'
        cases hs'
  case drops =>
    obtain ⟨fl, va, rfl, rfl⟩ | ⟨va, b, rfl, rfl⟩ | ⟨b, va, index, vp, hrti, hf⟩ := exec_cases ht
    · obtain ⟨he, hvpa, ⟨hpresent, huser⟩ | ⟨hr, hallowed, hbyte⟩⟩ := fetch_of_busRead_drops_mode hs hdown
      · exact .inl ⟨he, fl, va, hvpa, rfl, hpresent, huser⟩
      · exact .inr (.inl ⟨he, hr, .inl ⟨fl, va, hvpa, rfl, hallowed, hbyte⟩⟩)
    · rw [countAccess_ctl] at hdown
      obtain ⟨hplace, hbit⟩ := writePlace_of_busWrite_changes_mode (by rw [hdown, hs]; nofun)
      exact .inr (.inr ⟨va, b, rfl, hplace, hbit.symm.trans hdown⟩)
    · obtain hkept | ⟨he, -, -, hb, hr⟩ := fetchedByte_ctl_cases hf
      · rw [hkept, hs] at hdown
        cases hdown
      · exact .inr (.inl ⟨he, hr, .inr ⟨va, index, vp, hrti hb⟩⟩)
  case steps =>
    obtain ⟨-, rfl⟩ | ⟨word, rest, hp, hw⟩ | ⟨b, rest, -, rfl⟩ := step_cases hstep
    · exact absurd rfl hne
    · obtain ⟨i, hd, -⟩ | ⟨b, va, index, vp, hd, hf⟩ := serveWord_cases hw
      · exact ⟨word, rest, i, hp, hd⟩
      · exact absurd (congrArg Ctl.supervisor (fetchedByte_noRow_ctl hd hf)) hne
    · exact absurd rfl hne

/-- Settles O17: a read answers as `busRead_answers` says; a write is its fault and nothing else, or a physical write,
which emits no `Abort` (`memWrite_new_events`). -/
theorem eachAccessRaisesAtMostOneFault : Obligations.EachAccessRaisesAtMostOneFault := by
  refine ⟨fun fl va s t ht => ?_, fun va b s t ht => ?_⟩
  · rw [exec_readInstr] at ht
    obtain ⟨-, rfl⟩ := access_eq_next ht
    exact busRead_answers fl va s
  · obtain ⟨-, rfl⟩ := access_eq_next ht
    obtain ⟨pa, hpa, hw⟩ | ⟨kind, he, hnone, -, hw⟩ := busWrite_eq va b s <;> rw [hw]
    · exact .inl ⟨rfl, by rw [hpa]; rfl, memWrite_new_events pa b s⟩
    · exact .inr ⟨he, hnone, _, rfl, rfl, rfl⟩

/-- Settles O21: the faulting instruction has appended its `Abort` (`exec_events_of_fault`), which is the first of the
run. -/
theorem aWholeSystemRunEndsAtItsFirstFault : Obligations.AWholeSystemRunEndsAtItsFirstFault := by
  refine fun i s t d r hsafe => ⟨systemStep_of_safe hsafe, fun ht hr => systemStep_of_firstAbort ?_⟩
  rw [exec_events_of_fault ht hr]
  exact firstAbort_append_abort hsafe r

/-- Settles O55: the access is counted on an act that leaves the watchdog (`exec_counts_access`); at the limit
`countAccess` sets the dump, and then nothing is served. -/
theorem theWatchdogEndsTheRunAtItsLimit : Obligations.TheWatchdogEndsTheRunAtItsLimit := by
  intro i s t hi ht
  obtain ⟨-, -, hnone⟩ := serving_of_exec ht
  obtain ⟨x, rfl, hcfg, hcount, hdump⟩ := exec_counts_access hi ht
  rw [← hcfg, ← hcount]
  refine ⟨rfl, fun hlt => ?_, fun hle hrunning => ?_⟩
  · rw [countAccess_dump_of_lt hlt, hdump, hnone]
  · have hdumped := countAccess_dump_of_le hle hrunning
    refine ⟨⟨_, hdumped, dumpBytes_length _ _ _, fun k hk => dumpBytes_getElem? _ hk⟩, fun j u hj => ?_⟩
    exact not_serving_of_dumped (by rw [hdumped]; rfl) (serving_of_exec hj)

end Sys2Proof.Proofs

/-! SUPPORT. Proofs about reset and the hazards (spec/70_reset_and_hazards.md): a write to `CTL_ENABLED_ADDR`, and the
access after it. -/

namespace Sys2Proof.Machine

open Sys2Proof.Safety

/-! ### The façade while the MMU is enabled (spec/40_bus_facade.md R91, R92) -/

section Enabled
variable {s : State} (h : s.ctl.enabled = true)
include h

theorem busRead_of_enabled (fl : AccessFlags) (va : Nat) :
    busRead fl va s = translateRead (reduceAddress s.cfg va) fl s := if_pos h

theorem busWrite_of_enabled (va : Nat) (b : Byte) :
    busWrite va b s = translateWrite (reduceAddress s.cfg va) b s := if_pos h

end Enabled

/-! ### The write to `CTL_ENABLED_ADDR` (spec/70_reset_and_hazards.md R210) -/

/-- The state a write to `CTL_ENABLED_ADDR` leaves, by the boolean it writes. -/
def afterEnabledWrite (x : Bool) (s : State) : State :=
  countAccess ({ s with ctl := { s.ctl with enabled := x } }.answer none none)

@[simp] theorem afterEnabledWrite_enabled (x : Bool) (s : State) : (afterEnabledWrite x s).ctl.enabled = x := rfl

/-- Which entry a translated read uses does not depend on `enabled`. -/
@[simp] theorem usedEntry_afterEnabledWrite (fl : AccessFlags) (va : Nat) (x : Bool) (s : State) :
    usedEntry fl va (afterEnabledWrite x s) = usedEntry fl va s := rfl

theorem serving_afterEnabledWrite {s : State} (h : Serving s) (hlimit : s.env.accesses + 1 < s.cfg.watchdogLimit)
    (x : Bool) : Serving (afterEnabledWrite x s) := by
  unfold afterEnabledWrite
  exact serving_countAccess h hlimit

/-- A write whose place is `CTL_ENABLED_ADDR` sets the boolean and changes nothing else. -/
theorem exec_w_ctlEnabled {s : State} {va : Nat} (h : Serving s) (hp : s.cfg.profile = .paged)
    (hplace : writePlace va s = some s.cfg.ctlEnabled) (b : Byte) :
    exec (.w va b) s = .next (afterEnabledWrite (b.getLsbD 0) s) :=
  Proofs.onlyControlWritesChangeTheControlBooleans.1 s va b .enabled h hp hplace

end Sys2Proof.Machine

namespace Sys2Proof.Proofs

open Sys2Proof.Machine Sys2Proof.Safety

/-- Settles O60: the write leaves `afterEnabledWrite` (`exec_w_ctlEnabled`), which still serves; there the next access
is translated (`busRead_of_enabled`, `busWrite_of_enabled`) or, after a disabling write, identity-mapped (O18). -/
theorem enablingGovernsFromTheNextAccess : Obligations.EnablingGovernsFromTheNextAccess := by
  intro s va va' b b' fl h hp hlimit
  have hserving (x : Bool) : Serving (afterEnabledWrite x s) := serving_afterEnabledWrite h (by omega) x
  refine ⟨fun hoff hva hbit => ?enabling, fun hon hplace hbit => ?disabling⟩
  case enabling =>
    have hplace : writePlace va s = some s.cfg.ctlEnabled := by rw [writePlace_of_disabled hoff, hva]
    have hwrite := exec_w_ctlEnabled h hp hplace b
    rw [hbit] at hwrite
    have hon := afterEnabledWrite_enabled true s
    refine ⟨_, hwrite, rfl, ?_, ?_, fun habsent => ?_⟩
    · rw [exec_readInstr_next fl va' (hserving true), busRead_of_enabled hon]
      rfl
    · rw [exec_w_next va' b' (hserving true), busWrite_of_enabled hon]
      rfl
    · have hentry := (congrArg ptePresent (usedEntry_afterEnabledWrite fl va' true s)).trans habsent
      exact ⟨_, readsThroughNotPresentEntriesFault fl va' _ (hserving true) hon hentry, rfl⟩
  case disabling =>
    have hwrite := exec_w_ctlEnabled h hp hplace b
    rw [hbit] at hwrite
    obtain ⟨hread, hwrite', -⟩ := disabledAccessesAreIdentityMappedAndFaultFree (afterEnabledWrite false s) va'
      (hserving false) (afterEnabledWrite_enabled false s)
    exact ⟨_, hwrite, rfl, hread fl, hwrite' b'⟩

end Sys2Proof.Proofs
